-- ==== Sys2Proof/Word.lean ====
section
/-! DEFINITION. The word types of the block: the buses of the request port (R70), the fields of an
identifier (R60), the fields of the response record (R28). -/

namespace Sys2Proof

/-- An 11-bit CAN arbitration identifier (R7, R60). -/
abbrev Ident := BitVec 11

/-- A node-id result, 6 bits (R7, R28 NODE_OUT). -/
abbrev NodeId := BitVec 6

/-- A command id, 5 bits (R7, R28 CMD_OUT). -/
abbrev CmdId := BitVec 5

/-- The operand buses NODE_IN and CMD_IN, 8 bits each (R70; the widths are decision D3, log entry 9). -/
abbrev IdBus := BitVec 8

/-- The operand bus RAW_IN, 16 bits (R70; the width is decision D3). -/
abbrev RawBus := BitVec 16

/-- A payload length, 4 bits (R70 LEN, R28 LEN_OUT and TX_LEN). -/
abbrev LenBus := BitVec 4

/-- A payload field operand or result, 32 bits (R70 A0..A3, R28 F0..F3). -/
abbrev FieldBus := BitVec 32

/-- The payload bytes of one frame, byte `i` at bits `[8i+7:8i]` (R41, R70, R28). -/
abbrev PayBus := BitVec 64

/-- One payload byte (R41). -/
abbrev Byte := BitVec 8

/-- The 16-bit control word CTRL (R71). -/
abbrev CtrlWord := BitVec 16

end Sys2Proof
end

