-- ==== Sys2Proof/Config.lean ====
section
/-! DEFINITION. What an implementation fixes for the life of the block (R8, R27): the command table, the
four named command ids, the endpoint range; and the model's one free value, the arbitration ARB (R172).
The configuration is plain data; a machine state carries the one it was built with (State.cfg), so that a
statement about every state is a statement about every configuration. -/

namespace Sys2Proof

/-- The shapes a command-table entry can name for a payload that exists (R66 codes 1 to 4). A table entry
never names ENDPT (R9(h)), and NONE is `Option.none` of an entry's `txShape` (R66). -/
inductive FixedShape where
  | empty
  | busvi
  | inpos
  | hbeat
deriving DecidableEq, Repr

/-- The name of a command-table entry (R8). The block reads no name; `other` labels every entry that is
not one of the four the source names. -/
inductive CmdName where
  | getBusVi
  | setInputPos
  | heartbeat
  | estop
  | other (label : Nat)
deriving DecidableEq, Repr

/-- One entry of CMD_TABLE: (name, tx_shape, rx_shape, telemetry flag) (R8). `txShape = none` is the shape
NONE; by R66 an rx_shape is never NONE or ENDPT. -/
structure CmdEntry where
  name      : CmdName
  txShape   : Option FixedShape
  rxShape   : FixedShape
  telemetry : Bool
deriving DecidableEq, Repr

/-- The configuration of the block (R8, R27): CMD_TABLE as a function from command id 0..31 to an optional
entry, CMD_ID_GET_BUS_VI, CMD_ID_SET_INPUT_POS, CMD_ID_HEARTBEAT, CMD_ID_ESTOP, EP_LO and EP_HI. -/
structure CmdConfig where
  table         : Vector (Option CmdEntry) 32
  idGetBusVi    : CmdId
  idSetInputPos : CmdId
  idHeartbeat   : CmdId
  idEstop       : CmdId
  epLo          : CmdId
  epHi          : CmdId
deriving DecidableEq, Repr

/-- The two agents that issue requests (R171). -/
inductive Agent where
  | host
  | transport
deriving DecidableEq, Repr, Inhabited

/-- ARB (R8, R172): whose request is served when both agents have one waiting and nothing in the state
says which. A free value: it has no body, so nothing can be proved of it, and it is applied to the count of
requests served so far, so that every interleaving is some value of it. Log entry 3. -/
opaque Config.arb : Nat → Agent

end Sys2Proof
end

