-- ==== Sys2Proof/Machine/CmdTable.lean ====
section
/-! DEFINITION. Reading the command table: the entry of a command id, the class of a command id (R68), and
the spec's default instance of the configuration (93_implementation_defined.md GK4). -/

namespace Sys2Proof.Machine

/-- `CMD_TABLE(c)` (R8). -/
def lookup (cfg : CmdConfig) (c : CmdId) : Option CmdEntry :=
  cfg.table[c.toNat]'c.isLt

/-- `endpoint(c)`: `EP_LO <= c <= EP_HI` (R68). -/
def isEndpoint (cfg : CmdConfig) (c : CmdId) : Bool :=
  cfg.epLo.toNat ≤ c.toNat && c.toNat ≤ cfg.epHi.toNat

/-- The class of a command id (R68), with the table entry of a fixed one. -/
inductive CmdClass where
  | fixed (entry : CmdEntry)
  | endpoint
  | unknown
deriving DecidableEq, Repr

/-- The class of command id `c`, tested in the order of R135: fixed, endpoint, unknown. -/
def classify (cfg : CmdConfig) (c : CmdId) : CmdClass :=
  match lookup cfg c with
  | some e => .fixed e
  | none => if isEndpoint cfg c then .endpoint else .unknown

/-- The shape of a payload that exists: one of the table's, or the raw endpoint shape (R66, R67). -/
inductive WireShape where
  | fixed (S : FixedShape)
  | endpt
deriving DecidableEq, Repr

/-- The shape RECV decodes an inbound payload of command `c` with (R127, R135). -/
def inboundShape (cfg : CmdConfig) (c : CmdId) : Option WireShape :=
  match classify cfg c with
  | .fixed e => some (.fixed e.rxShape)
  | .endpoint => some .endpt
  | .unknown => none

/-- The shape the host encodes an outbound payload of command `c` with (R127); `none` when the entry's
tx_shape is NONE ("the local side never sends that command") or the command is unknown. -/
def outboundShape (cfg : CmdConfig) (c : CmdId) : Option WireShape :=
  match classify cfg c with
  | .fixed e => e.txShape.map .fixed
  | .endpoint => some .endpt
  | .unknown => none

/-- PRESUMED (log entry 2): the spec's default instance GK4, which it takes from general knowledge:
HEARTBEAT 0x01, ESTOP 0x02, endpoint range 0x04..0x05, SET_INPUT_POS 0x0C, GET_BUS_VI 0x17. -/
def gk4 : CmdConfig where
  table := #v[
    none,
    some { name := .heartbeat, txShape := none, rxShape := .hbeat, telemetry := true },
    some { name := .estop, txShape := some .empty, rxShape := .empty, telemetry := false },
    none, none, none, none, none,
    none, none, none, none,
    some { name := .setInputPos, txShape := some .inpos, rxShape := .empty, telemetry := false },
    none, none, none,
    none, none, none, none, none, none, none,
    some { name := .getBusVi, txShape := some .empty, rxShape := .busvi, telemetry := false },
    none, none, none, none, none, none, none, none]
  idGetBusVi := 0x17
  idSetInputPos := 0x0C
  idHeartbeat := 0x01
  idEstop := 0x02
  epLo := 0x04
  epHi := 0x05

end Sys2Proof.Machine
end

