-- ==== Sys2Proof/Syntax.lean ====
section
/-! DEFINITION. The 21 operations of the request port (R72, opcode_table.json), one constructor per row.
An instruction is a decoded request: its operation, the CTRL flags the operation may carry (R73) and the
operand buses the operation reads (R75), at their bus widths. -/

namespace Sys2Proof

/-- A decoded request (R72, R75). Operand names are the buses of R70. The ENC_* operands keep their whole
32-bit bus: ignoring the upper bits is the operation's own doing (R75, D35). -/
inductive Instr where
  | idPack (nodeIn cmdIn : IdBus)
  | idFromRaw (rawIn : RawBus)
  | idNode (idIn : Ident)
  | idCmd (idIn : Ident)
  | idRaw (idIn : Ident)
  | encEmpty
  | decEmpty (len : LenBus) (payload : PayBus)
  | encBusvi (a0 a1 : FieldBus)
  | decBusvi (len : LenBus) (payload : PayBus)
  | encInpos (a0 a1 a2 : FieldBus)
  | decInpos (len : LenBus) (payload : PayBus)
  | encHbeat (a0 a1 a2 a3 : FieldBus)
  | decHbeat (len : LenBus) (payload : PayBus)
  | encEndpt (len : LenBus) (payload : PayBus)
  | decEndpt (len : LenBus) (payload : PayBus)
  | send (e r : Bool) (nodeIn cmdIn : IdBus) (len : LenBus) (payload : PayBus)
  | recv (r x : Bool) (idIn : Ident) (len : LenBus) (payload : PayBus)
  | cancel (nodeIn cmdIn : IdBus)
  | timeout (nodeIn cmdIn : IdBus)
  | subscribe (nodeIn : IdBus)
  | unsubscribe (nodeIn : IdBus)
deriving DecidableEq, Repr

end Sys2Proof
end

