-- ==== Sys2Proof/Machine/Operands.lean ====
section
/-! DEFINITION. The operand forms: which operations read LEN and when it is legal (R74), the range of a
node or command operand (R76), the identifier fields (R60), the payload bytes and fields (R41 to R43), the
shapes (R61 to R66) and the encoding and decoding of a payload by its shape (R110, R111, R125, R126).
Nothing here reads or writes the state. -/

namespace Sys2Proof

/-- The LEN operand of an operation that reads LEN (R74's list, R75). -/
def Instr.lenOperand : Instr → Option LenBus
  | .idPack _ _ => none
  | .idFromRaw _ => none
  | .idNode _ => none
  | .idCmd _ => none
  | .idRaw _ => none
  | .encEmpty => none
  | .decEmpty len _ => some len
  | .encBusvi _ _ => none
  | .decBusvi len _ => some len
  | .encInpos _ _ _ => none
  | .decInpos len _ => some len
  | .encHbeat _ _ _ _ => none
  | .decHbeat len _ => some len
  | .encEndpt len _ => some len
  | .decEndpt len _ => some len
  | .send _ _ _ _ len _ => some len
  | .recv _ _ _ len _ => some len
  | .cancel _ _ => none
  | .timeout _ _ => none
  | .subscribe _ => none
  | .unsubscribe _ => none

/-- A length of the frame's payload, 0 to 8 (R13). -/
def Machine.lenOk (len : LenBus) : Bool := len.toNat ≤ 8


namespace Machine

/-! ## The identifier (R60) -/

/-- `(node << 5) | command` on naturals, as an 11-bit identifier (R60). For `node < 64` and
`command < 32` nothing is cut off (Laws/Operands.lean, `mkIdent_toNat`). -/
def mkIdent (node cmd : Nat) : Ident := BitVec.ofNat 11 ((node <<< 5) ||| cmd)

/-- `identifier >> 5` = bits 10..5 (R60, R102). -/
def nodeOf (i : Ident) : NodeId := (i >>> 5).setWidth 6

/-- `identifier & 0x1F` = bits 4..0 (R60, R103). -/
def cmdOf (i : Ident) : CmdId := (i &&& 0x1F).setWidth 5

/-- `RAW_IN & 0x7FF`: the low 11 bits (R101). -/
def maskRaw (raw : RawBus) : Ident := (raw &&& 0x7FF).setWidth 11

/-- NODE_IN is a node id: below 64, compared as a natural (R76). -/
def nodeInRange (node : IdBus) : Bool := node.toNat < 64

/-- CMD_IN is a command id: below 32, compared as a natural (R76). -/
def cmdInRange (cmd : IdBus) : Bool := cmd.toNat < 32

/-! ## The payload bytes (R41 to R43) -/

/-- Byte `i` of a payload bus: bits `[8i+7:8i]` (R41). -/
def byteAt (p : PayBus) (i : Nat) : Byte := p.extractLsb' (8 * i) 8

/-- The payload bus with byte `i` replaced and no other byte changed (R41, R43). -/
def setByte (p : PayBus) (i : Nat) (b : Byte) : PayBus :=
  (p &&& ~~~(0xFF#64 <<< (8 * i))) ||| (b.setWidth 64 <<< (8 * i))

/-- `PayRead(P, off, n)`: the sum over `k < n` of `byte[off + k] << 8k` (R42). -/
def payRead (p : PayBus) (off : Nat) : Nat → Nat
  | 0 => 0
  | n + 1 => payRead p off n + (byteAt p (off + n)).toNat <<< (8 * n)

/-- `PayWrite(P, off, n, v)`: byte `off + k` becomes `(v >> 8k) & 0xFF` for `k < n` (R43). -/
def payWrite (p : PayBus) (off : Nat) : Nat → Nat → PayBus
  | 0, _ => p
  | n + 1, v => setByte (payWrite p off n v) (off + n) (BitVec.ofNat 8 ((v >>> (8 * n)) &&& 0xFF))

/-- Bytes 0..n-1 of `p`, the others 0 (R125, R126, R130: bytes at index >= LEN are dropped). -/
def copyBytes (p : PayBus) : Nat → PayBus
  | 0 => 0
  | n + 1 => setByte (copyBytes p n) n (byteAt p n)

/-! ## The four field buses (R70 A0..A3, R28 F0..F3) -/

/-- Which of the four operand or result buses carries a field (R63 to R65). -/
inductive FieldIx where
  | b0
  | b1
  | b2
  | b3
deriving DecidableEq, Repr

/-- The values on A0..A3, or on F0..F3. -/
structure Fields where
  v0 : FieldBus := 0
  v1 : FieldBus := 0
  v2 : FieldBus := 0
  v3 : FieldBus := 0
deriving DecidableEq, Repr

/-- The value on one of the four buses. -/
def Fields.get (f : Fields) : FieldIx → FieldBus
  | .b0 => f.v0
  | .b1 => f.v1
  | .b2 => f.v2
  | .b3 => f.v3

/-- The buses with one of them replaced. -/
def Fields.set (f : Fields) (ix : FieldIx) (v : FieldBus) : Fields :=
  match ix with
  | .b0 => { f with v0 := v }
  | .b1 => { f with v1 := v }
  | .b2 => { f with v2 := v }
  | .b3 => { f with v3 := v }

/-! ## The shapes (R61 to R66) -/

/-- One field of a shape: byte offset, width in bytes, and its operand and result bus. -/
structure FieldSpec where
  off   : Nat
  width : Nat
  bus   : FieldIx
deriving DecidableEq, Repr

/-- The field table of a shape: R62 EMPTY, R63 BUSVI, R64 INPOS, R65 HBEAT. -/
def shapeFields : FixedShape → List FieldSpec
  | .empty => []
  | .busvi => [⟨0, 4, .b0⟩, ⟨4, 4, .b1⟩]
  | .inpos => [⟨0, 4, .b0⟩, ⟨4, 2, .b1⟩, ⟨6, 2, .b2⟩]
  | .hbeat => [⟨0, 4, .b0⟩, ⟨4, 1, .b1⟩, ⟨5, 1, .b2⟩, ⟨6, 1, .b3⟩]

/-- `len(S)` (R66). -/
def shapeLen : FixedShape → Nat
  | .empty => 0
  | .busvi => 8
  | .inpos => 8
  | .hbeat => 7

/-- `PayWrite` of each field in turn, from the operand bus cut to the field's width (R110). -/
def writeFields (ops : Fields) : List FieldSpec → PayBus → PayBus
  | [], p => p
  | f :: fs, p => writeFields ops fs (payWrite p f.off f.width ((ops.get f.bus).toNat % 2 ^ (8 * f.width)))

/-- `zext_32(PayRead)` of each field in turn, onto its result bus (R111). -/
def readFields (p : PayBus) : List FieldSpec → Fields → Fields
  | [], r => r
  | f :: fs, r => readFields p fs (r.set f.bus (BitVec.ofNat 32 (payRead p f.off f.width)))

/-- The payload of shape `S`: all bytes zero, then every field written (R110). -/
def encodeShape (S : FixedShape) (ops : Fields) : PayBus := writeFields ops (shapeFields S) 0

/-- The fields of a payload decoded with shape `S` (R111); a bus the shape does not use is 0. -/
def decodeShape (S : FixedShape) (p : PayBus) : Fields := readFields p (shapeFields S) {}

/-- The length test of a decode: LEN is below `len(S)` (R111, R112). -/
def tooShort (S : FixedShape) (len : LenBus) : Bool := len.toNat < shapeLen S

/-! ## Signed readings (R11, R116) -/

/-- `sint16(b)`: `b - 65536` when `b[15] = 1`, else `b` (R11). That an int16 field is two's complement is
PRESUMED (GK2, log entry 11). -/
def sint16 (b : BitVec 16) : Int := if b.getLsbD 15 then (b.toNat : Int) - 65536 else b.toNat

/-- `sext_N(v)` of an M-bit pattern (R11). No operation of the block uses it (D10). -/
def sext (M N : Nat) (v : Nat) : Nat := if v.testBit (M - 1) then v + (2 ^ N - 2 ^ M) else v

/-- The physical value of a feed-forward field: `sint16(raw) / 1000` (R64, R116). The block carries only
`raw`; the other direction is the host's (D7). -/
def feedForward (raw : BitVec 16) : Rat := (sint16 raw : Rat) / 1000

end Machine
end Sys2Proof
end

