-- ==== Sys2Proof/WellFormed.lean ====
section
/-! DEFINITION. Well-formedness: of an instruction (R74: an operation that reads LEN has LEN <= 8) and of a
configuration (R9). Both are Bool, so `decide` runs on them. -/

namespace Sys2Proof

/-- R74: the only check on operands; operands an operation does not read are not in the instruction. -/
def Instr.wf (i : Instr) : Bool :=
  match i.lenOperand with
  | some len => Machine.lenOk len
  | none => true

/-- `CMD_TABLE(c)` is an entry with these two shapes. -/
def CmdConfig.hasShapes (cfg : CmdConfig) (c : CmdId) (tx : Option FixedShape) (rx : FixedShape) : Bool :=
  match Machine.lookup cfg c with
  | some e => e.txShape == tx && e.rxShape == rx
  | none => false

/-- R9(a). -/
def CmdConfig.getBusViOk (cfg : CmdConfig) : Bool :=
  cfg.hasShapes cfg.idGetBusVi (some .empty) .busvi

/-- R9(b). -/
def CmdConfig.setInputPosOk (cfg : CmdConfig) : Bool :=
  cfg.hasShapes cfg.idSetInputPos (some .inpos) .empty

/-- R9(c). -/
def CmdConfig.heartbeatOk (cfg : CmdConfig) : Bool :=
  cfg.hasShapes cfg.idHeartbeat none .hbeat &&
    (match Machine.lookup cfg cfg.idHeartbeat with
      | some e => e.telemetry
      | none => false)

/-- R9(d). -/
def CmdConfig.estopOk (cfg : CmdConfig) : Bool :=
  cfg.hasShapes cfg.idEstop (some .empty) .empty

/-- R9(e): the four named ids are distinct. -/
def CmdConfig.namedIdsDistinct (cfg : CmdConfig) : Bool :=
  decide [cfg.idGetBusVi, cfg.idSetInputPos, cfg.idHeartbeat, cfg.idEstop].Nodup

/-- R8: `EP_LO <= EP_HI` (`<= 31` is the width of a command id). -/
def CmdConfig.endpointRangeOk (cfg : CmdConfig) : Bool :=
  cfg.epLo.toNat ≤ cfg.epHi.toNat

/-- R9(f): no table entry lies in the endpoint range. -/
def CmdConfig.noEntryInRange (cfg : CmdConfig) : Bool :=
  (List.range 32).all fun c =>
    !(Machine.isEndpoint cfg (BitVec.ofNat 5 c) && (Machine.lookup cfg (BitVec.ofNat 5 c)).isSome)

/-- R9: what every instance of the configuration satisfies. R9(g) constrains nothing, and R9(h) holds by
the type of an entry's shapes. -/
def CmdConfig.valid (cfg : CmdConfig) : Bool :=
  cfg.getBusViOk && cfg.setInputPosOk && cfg.heartbeatOk && cfg.estopOk && cfg.namedIdsDistinct &&
    cfg.endpointRangeOk && cfg.noEntryInRange

end Sys2Proof
end

