-- ==== Sys2Proof/Decode.lean ====
section
/-! DEFINITION. The request port: the tuple of buses of a request (R70), the fields of CTRL (R71), the
decoder with the legality check (R72 to R74), and after it the encoder (R77). -/

namespace Sys2Proof

/-- A request as presented on the port: all its buses together (R70). A bus not written is 0 (R77). -/
structure Request where
  ctrl    : CtrlWord
  nodeIn  : IdBus := 0
  cmdIn   : IdBus := 0
  rawIn   : RawBus := 0
  idIn    : Ident := 0
  a0      : FieldBus := 0
  a1      : FieldBus := 0
  a2      : FieldBus := 0
  a3      : FieldBus := 0
  payload : PayBus := 0
  len     : LenBus := 0
deriving DecidableEq, Repr

/-- OP = CTRL[4:0] (R71). -/
def Request.op (q : Request) : BitVec 5 := q.ctrl.extractLsb' 0 5

/-- E = CTRL[5], expect reply (R71). -/
def Request.flagE (q : Request) : Bool := q.ctrl.getLsbD 5

/-- R = CTRL[6], the remote-request bit (R71). -/
def Request.flagR (q : Request) : Bool := q.ctrl.getLsbD 6

/-- X = CTRL[7], extended-format frame received (R71). -/
def Request.flagX (q : Request) : Bool := q.ctrl.getLsbD 7

/-- CTRL[15:8], which must be 0 (R71). -/
def Request.reserved (q : Request) : BitVec 8 := q.ctrl.extractLsb' 8 8

/-- Why a request is illegal (R74), by name. The response is the same for all of them. -/
inductive Illegal where
  | reservedBits
  | flagE
  | flagR
  | flagX
  | reservedOp
  | lenOver8
deriving DecidableEq, Repr

/-- The operation OP names with the buses it reads (R72, R75); a reserved code names none. -/
def decodeOp (q : Request) : Option Instr :=
  match q.op.toNat with
  | 0x01 => some (.idPack q.nodeIn q.cmdIn)
  | 0x02 => some (.idFromRaw q.rawIn)
  | 0x03 => some (.idNode q.idIn)
  | 0x04 => some (.idCmd q.idIn)
  | 0x05 => some (.idRaw q.idIn)
  | 0x06 => some .encEmpty
  | 0x07 => some (.decEmpty q.len q.payload)
  | 0x08 => some (.encBusvi q.a0 q.a1)
  | 0x09 => some (.decBusvi q.len q.payload)
  | 0x0A => some (.encInpos q.a0 q.a1 q.a2)
  | 0x0B => some (.decInpos q.len q.payload)
  | 0x0C => some (.encHbeat q.a0 q.a1 q.a2 q.a3)
  | 0x0D => some (.decHbeat q.len q.payload)
  | 0x0E => some (.encEndpt q.len q.payload)
  | 0x0F => some (.decEndpt q.len q.payload)
  | 0x10 => some (.send q.flagE q.flagR q.nodeIn q.cmdIn q.len q.payload)
  | 0x11 => some (.recv q.flagR q.flagX q.idIn q.len q.payload)
  | 0x12 => some (.cancel q.nodeIn q.cmdIn)
  | 0x13 => some (.timeout q.nodeIn q.cmdIn)
  | 0x14 => some (.subscribe q.nodeIn)
  | 0x15 => some (.unsubscribe q.nodeIn)
  | _ => none

/-- The decoder: total on every request; an illegal one (R73, R74) is refused by name. -/
def decode (q : Request) : Except Illegal Instr :=
  if q.reserved ≠ 0 then .error .reservedBits
  else if q.flagE = true ∧ q.op ≠ 0x10 then .error .flagE
  else if q.flagR = true ∧ q.op ≠ 0x10 ∧ q.op ≠ 0x11 then .error .flagR
  else if q.flagX = true ∧ q.op ≠ 0x11 then .error .flagX
  else
    match decodeOp q with
    | none => .error .reservedOp
    | some i => if i.wf then .ok i else .error .lenOver8

/-- The operation code of an instruction (R72). -/
def Instr.opcode : Instr → BitVec 5
  | .idPack _ _ => 0x01
  | .idFromRaw _ => 0x02
  | .idNode _ => 0x03
  | .idCmd _ => 0x04
  | .idRaw _ => 0x05
  | .encEmpty => 0x06
  | .decEmpty _ _ => 0x07
  | .encBusvi _ _ => 0x08
  | .decBusvi _ _ => 0x09
  | .encInpos _ _ _ => 0x0A
  | .decInpos _ _ => 0x0B
  | .encHbeat _ _ _ _ => 0x0C
  | .decHbeat _ _ => 0x0D
  | .encEndpt _ _ => 0x0E
  | .decEndpt _ _ => 0x0F
  | .send _ _ _ _ _ _ => 0x10
  | .recv _ _ _ _ _ => 0x11
  | .cancel _ _ => 0x12
  | .timeout _ _ => 0x13
  | .subscribe _ => 0x14
  | .unsubscribe _ => 0x15

/-- The flag E of an instruction: SEND's only (R73). -/
def Instr.flagE : Instr → Bool
  | .send e _ _ _ _ _ => e
  | _ => false

/-- The flag R of an instruction: SEND's and RECV's only (R73). -/
def Instr.flagR : Instr → Bool
  | .send _ r _ _ _ _ => r
  | .recv r _ _ _ _ => r
  | _ => false

/-- The flag X of an instruction: RECV's only (R73). -/
def Instr.flagX : Instr → Bool
  | .recv _ x _ _ _ => x
  | _ => false

/-- `OP | (E << 5) | (R << 6) | (X << 7)` (R77). -/
def ctrlWord (op : CtrlWord) (e r x : Bool) : CtrlWord :=
  op ||| ((BitVec.ofBool e).setWidth 16 <<< 5) ||| ((BitVec.ofBool r).setWidth 16 <<< 6) |||
    ((BitVec.ofBool x).setWidth 16 <<< 7)

/-- The encoder: the request of an instruction, with every bus the operation does not read at 0
(R72, R75, R77). -/
def encode : Instr → Request
  | .idPack nodeIn cmdIn => { ctrl := ctrlWord 0x01 false false false, nodeIn := nodeIn, cmdIn := cmdIn }
  | .idFromRaw rawIn => { ctrl := ctrlWord 0x02 false false false, rawIn := rawIn }
  | .idNode idIn => { ctrl := ctrlWord 0x03 false false false, idIn := idIn }
  | .idCmd idIn => { ctrl := ctrlWord 0x04 false false false, idIn := idIn }
  | .idRaw idIn => { ctrl := ctrlWord 0x05 false false false, idIn := idIn }
  | .encEmpty => { ctrl := ctrlWord 0x06 false false false }
  | .decEmpty len payload => { ctrl := ctrlWord 0x07 false false false, len := len, payload := payload }
  | .encBusvi a0 a1 => { ctrl := ctrlWord 0x08 false false false, a0 := a0, a1 := a1 }
  | .decBusvi len payload => { ctrl := ctrlWord 0x09 false false false, len := len, payload := payload }
  | .encInpos a0 a1 a2 => { ctrl := ctrlWord 0x0A false false false, a0 := a0, a1 := a1, a2 := a2 }
  | .decInpos len payload => { ctrl := ctrlWord 0x0B false false false, len := len, payload := payload }
  | .encHbeat a0 a1 a2 a3 =>
    { ctrl := ctrlWord 0x0C false false false, a0 := a0, a1 := a1, a2 := a2, a3 := a3 }
  | .decHbeat len payload => { ctrl := ctrlWord 0x0D false false false, len := len, payload := payload }
  | .encEndpt len payload => { ctrl := ctrlWord 0x0E false false false, len := len, payload := payload }
  | .decEndpt len payload => { ctrl := ctrlWord 0x0F false false false, len := len, payload := payload }
  | .send e r nodeIn cmdIn len payload =>
    { ctrl := ctrlWord 0x10 e r false, nodeIn := nodeIn, cmdIn := cmdIn, len := len, payload := payload }
  | .recv r x idIn len payload =>
    { ctrl := ctrlWord 0x11 false r x, idIn := idIn, len := len, payload := payload }
  | .cancel nodeIn cmdIn => { ctrl := ctrlWord 0x12 false false false, nodeIn := nodeIn, cmdIn := cmdIn }
  | .timeout nodeIn cmdIn => { ctrl := ctrlWord 0x13 false false false, nodeIn := nodeIn, cmdIn := cmdIn }
  | .subscribe nodeIn => { ctrl := ctrlWord 0x14 false false false, nodeIn := nodeIn }
  | .unsubscribe nodeIn => { ctrl := ctrlWord 0x15 false false false, nodeIn := nodeIn }

/-- The request whose CTRL is the low `nbits` of `w`, numbered as opcode_table.json numbers them, with
every operand bus 0. CTRL is one 16-bit bus value, so it has no byte order (log entry 7). -/
def requestOfWord (nbits w : Nat) : Request := { ctrl := BitVec.ofNat 16 (w % 2 ^ nbits) }

/-- The instruction the decoder reads from an opcode-table word (operand buses 0). -/
def decodeTableWord (nbits w : Nat) : Option Instr :=
  match decode (requestOfWord nbits w) with
  | .ok i => some i
  | .error _ => none

/-- One row of opcode_table.json: a CTRL word `w` is the row's when `w &&& mask = pattern`. -/
structure TableRow where
  mnemonic : String
  pattern  : CtrlWord
  mask     : CtrlWord
deriving DecidableEq, Repr

/-- opcode_table.json, row by row. -/
def opcodeTable : List TableRow := [
  ⟨"ID_PACK", 0x0001, 0xFFFF⟩, ⟨"ID_FROM_RAW", 0x0002, 0xFFFF⟩, ⟨"ID_NODE", 0x0003, 0xFFFF⟩,
  ⟨"ID_CMD", 0x0004, 0xFFFF⟩, ⟨"ID_RAW", 0x0005, 0xFFFF⟩, ⟨"ENC_EMPTY", 0x0006, 0xFFFF⟩,
  ⟨"DEC_EMPTY", 0x0007, 0xFFFF⟩, ⟨"ENC_BUSVI", 0x0008, 0xFFFF⟩, ⟨"DEC_BUSVI", 0x0009, 0xFFFF⟩,
  ⟨"ENC_INPOS", 0x000A, 0xFFFF⟩, ⟨"DEC_INPOS", 0x000B, 0xFFFF⟩, ⟨"ENC_HBEAT", 0x000C, 0xFFFF⟩,
  ⟨"DEC_HBEAT", 0x000D, 0xFFFF⟩, ⟨"ENC_ENDPT", 0x000E, 0xFFFF⟩, ⟨"DEC_ENDPT", 0x000F, 0xFFFF⟩,
  ⟨"SEND", 0x0010, 0xFF9F⟩, ⟨"RECV", 0x0011, 0xFF3F⟩, ⟨"CANCEL", 0x0012, 0xFFFF⟩,
  ⟨"TIMEOUT", 0x0013, 0xFFFF⟩, ⟨"SUBSCRIBE", 0x0014, 0xFFFF⟩, ⟨"UNSUBSCRIBE", 0x0015, 0xFFFF⟩]

/-- The opcode-table row of an instruction. -/
def Instr.tableRow : Instr → TableRow
  | .idPack _ _ => ⟨"ID_PACK", 0x0001, 0xFFFF⟩
  | .idFromRaw _ => ⟨"ID_FROM_RAW", 0x0002, 0xFFFF⟩
  | .idNode _ => ⟨"ID_NODE", 0x0003, 0xFFFF⟩
  | .idCmd _ => ⟨"ID_CMD", 0x0004, 0xFFFF⟩
  | .idRaw _ => ⟨"ID_RAW", 0x0005, 0xFFFF⟩
  | .encEmpty => ⟨"ENC_EMPTY", 0x0006, 0xFFFF⟩
  | .decEmpty _ _ => ⟨"DEC_EMPTY", 0x0007, 0xFFFF⟩
  | .encBusvi _ _ => ⟨"ENC_BUSVI", 0x0008, 0xFFFF⟩
  | .decBusvi _ _ => ⟨"DEC_BUSVI", 0x0009, 0xFFFF⟩
  | .encInpos _ _ _ => ⟨"ENC_INPOS", 0x000A, 0xFFFF⟩
  | .decInpos _ _ => ⟨"DEC_INPOS", 0x000B, 0xFFFF⟩
  | .encHbeat _ _ _ _ => ⟨"ENC_HBEAT", 0x000C, 0xFFFF⟩
  | .decHbeat _ _ => ⟨"DEC_HBEAT", 0x000D, 0xFFFF⟩
  | .encEndpt _ _ => ⟨"ENC_ENDPT", 0x000E, 0xFFFF⟩
  | .decEndpt _ _ => ⟨"DEC_ENDPT", 0x000F, 0xFFFF⟩
  | .send _ _ _ _ _ _ => ⟨"SEND", 0x0010, 0xFF9F⟩
  | .recv _ _ _ _ _ => ⟨"RECV", 0x0011, 0xFF3F⟩
  | .cancel _ _ => ⟨"CANCEL", 0x0012, 0xFFFF⟩
  | .timeout _ _ => ⟨"TIMEOUT", 0x0013, 0xFFFF⟩
  | .subscribe _ => ⟨"SUBSCRIBE", 0x0014, 0xFFFF⟩
  | .unsubscribe _ => ⟨"UNSUBSCRIBE", 0x0015, 0xFFFF⟩

end Sys2Proof
end

