-- ==== Sys2Proof/Machine/BitArray.lean ====
section
/-! DEFINITION. A bit array with one entry per `w`-bit index, held as the list of the indices whose bit is
1, indices strictly rising (the canonical form, so that equal arrays are equal lists). PEND is one with
`w = 11` (R22), SUB one with `w = 6` (R24). -/

namespace Sys2Proof.Machine

/-- The indices whose bit is 1; every other bit is 0. -/
abbrev BitArray (w : Nat) := List (BitVec w)

/-- The canonical form: indices strictly rising. -/
abbrev BitArray.wf {w : Nat} (a : BitArray w) : Prop := a.Pairwise (fun i j => i.toNat < j.toNat)

/-- The bit at index `i`. -/
def BitArray.read {w : Nat} (a : BitArray w) (i : BitVec w) : Bool := a.contains i

/-- Set the bit at index `i` to 1. -/
def BitArray.setBit {w : Nat} (i : BitVec w) : BitArray w → BitArray w
  | [] => [i]
  | j :: js =>
    if i.toNat < j.toNat then i :: j :: js
    else if i = j then j :: js
    else j :: BitArray.setBit i js

/-- Set the bit at index `i` to 0. -/
def BitArray.clearBit {w : Nat} (i : BitVec w) : BitArray w → BitArray w
  | [] => []
  | j :: js => if i = j then BitArray.clearBit i js else j :: BitArray.clearBit i js

end Sys2Proof.Machine
end

