-- ==== Sys2Proof/Machine/State.lean ====
section
/-! DEFINITION. The state of the block and its surroundings as plain data, the response record, the reasons
a step could stop, and the state after reset. -/

namespace Sys2Proof.Machine

/-- The outcome names of R161; their 4-bit codes are `Status.code` in Machine/Flags.lean. -/
inductive Status where
  | ok
  | outOfRange
  | malformedPayload
  | unknownCommand
  | timeout
  | cancelled
  | busy
  | illegalRequest
  | completed
  | unsolicited
  | discarded
  | ignoredNode
  | ignoredFormat
  | notPending
deriving DecidableEq, Repr

/-- The response record (R28). A field a rule does not set is zero (R12). -/
structure Response where
  status   : Status
  idOut    : Ident := 0
  nodeOut  : NodeId := 0
  cmdOut   : CmdId := 0
  shapeOut : BitVec 3 := 0
  f0       : FieldBus := 0
  f1       : FieldBus := 0
  f2       : FieldBus := 0
  f3       : FieldBus := 0
  lenOut   : LenBus := 0
  payOut   : PayBus := 0
  txValid  : Bool := false
  txId     : Ident := 0
  txRtr    : Bool := false
  txLen    : LenBus := 0
  txData   : PayBus := 0
deriving DecidableEq, Repr

/-- What decides the next service: ARB grants one agent (R172), or a reset takes effect between requests
(R180). -/
inductive Turn where
  | grant (a : Agent)
  | reset
deriving DecidableEq, Repr

/-- The machine. `pend` and `sub` are the block's whole state (10_state.md); `cfg` is its configuration,
which nothing changes (R27); `response` is the record the latest request returned (R28, R29), held here though it
is no state of the block (log entry 8). The rest are
its surroundings: the requests each agent has presented and the block has not served, oldest first (R21,
R171), what ARB and the reset line will do next (R172, R180), the count of requests served, to which the
free value `Config.arb` is applied, and the agent the latest response goes to (R29). -/
structure State where
  pend       : BitArray 11
  sub        : BitArray 6
  cfg        : CmdConfig
  hostQ      : List Request
  transportQ : List Request
  schedule   : List Turn
  served     : Nat
  client     : Option Agent
  response   : Option Response
deriving DecidableEq, Repr

/-- The reasons the machine stops with a fault: there is none. "An error does not trap" (R165): every error
is the response of the request that met it, and the next request is served normally (R166). DEDUCED, log
entry 17. -/
inductive Fault where
deriving DecidableEq, Repr

/-- The reasons an instruction has no meaning. -/
inductive Refusal where
  /-- Raised only by an arm of `exec` whose instruction has no meaning yet (safe); no arm is left. -/
  | notModelled (mnemonic : String)
deriving DecidableEq, Repr

/-- The machine right after reset: every PEND and SUB bit 0 and no response outstanding (R32). No request
is waiting and nothing is scheduled (DESIGN CHOICE, log entry 13). The configuration is the spec's default instance GK4 (PRESUMED, log
entry 2). -/
def State.reset : State where
  pend := []
  sub := []
  cfg := gk4
  hostQ := []
  transportQ := []
  schedule := []
  served := 0
  client := none
  response := none

end Sys2Proof.Machine
end

