-- ==== Sys2Proof/Machine/Flags.lean ====
section
/-! DEFINITION. The codes software sees: the 4-bit STATUS codes, the block's only condition code (R29,
R161), and the 3-bit shape tags on SHAPE_OUT (R66). The block has no flag register (R29). -/

namespace Sys2Proof.Machine

/-- The 4-bit code of a status (R161). -/
def Status.code : Status → BitVec 4
  | .ok => 0
  | .outOfRange => 1
  | .malformedPayload => 2
  | .unknownCommand => 3
  | .timeout => 4
  | .cancelled => 5
  | .busy => 6
  | .illegalRequest => 7
  | .completed => 8
  | .unsolicited => 9
  | .discarded => 10
  | .ignoredNode => 11
  | .ignoredFormat => 12
  | .notPending => 13

/-- The "kind" column of R161. -/
inductive StatusKind where
  | success
  | error
  | report
  | terminal
  | event
deriving DecidableEq, Repr

/-- The kind of a status (R161). -/
def Status.kind : Status → StatusKind
  | .ok => .success
  | .outOfRange => .error
  | .malformedPayload => .error
  | .unknownCommand => .report
  | .timeout => .terminal
  | .cancelled => .terminal
  | .busy => .error
  | .illegalRequest => .error
  | .completed => .terminal
  | .unsolicited => .event
  | .discarded => .event
  | .ignoredNode => .event
  | .ignoredFormat => .event
  | .notPending => .event

/-- The source's error kinds (R160). -/
inductive SourceError where
  | outOfRange
  | malformedPayload
  | unknownCommand
  | timeout
  | cancelled
deriving DecidableEq, Repr

/-- The status an error kind of the source maps onto (R160). -/
def SourceError.status : SourceError → Status
  | .outOfRange => .outOfRange
  | .malformedPayload => .malformedPayload
  | .unknownCommand => .unknownCommand
  | .timeout => .timeout
  | .cancelled => .cancelled

/-- The STATUS field of the response record as its 4-bit bus (R28, R161). -/
def Response.statusBus (r : Response) : BitVec 4 := r.status.code

/-- The shape tag of a fixed shape (R66). -/
def shapeCode : FixedShape → BitVec 3
  | .empty => 1
  | .busvi => 2
  | .inpos => 3
  | .hbeat => 4

/-- The shape tag NONE, code 0, of an entry's tx_shape that is absent (R66). -/
def txShapeCode : Option FixedShape → BitVec 3
  | none => 0
  | some S => shapeCode S

/-- The shape tag ENDPT (R66, R67). -/
def endptCode : BitVec 3 := 5

/-- The shape tag of a payload that exists (R66). -/
def WireShape.code : WireShape → BitVec 3
  | .fixed S => shapeCode S
  | .endpt => endptCode

end Sys2Proof.Machine
end

