-- ==== Sys2Proof/Machine/Ops.lean ====
section
/-! DEFINITION. The named operations over the state, shared by every meaning: reading and writing PEND and
SUB, `active`, ending a request with `raise` or `finish`, the two checks several operations share, and the
reset of the block. The block has no traps (R165); `raise` is what takes the place of taking an exception,
and there is no return from one (R166). -/

namespace Sys2Proof.Machine

/-- The outcome of a step or a meaning. -/
abbrev Result := Host.Outcome State Fault Refusal

/-! ## PEND and SUB (R22, R24) -/

/-- `PEND[i]` (R22). -/
def State.pendAt (s : State) (i : Ident) : Bool := s.pend.read i

/-- `PEND[i] <- 1`. -/
def State.setPend (s : State) (i : Ident) : State := { s with pend := BitArray.setBit i s.pend }

/-- `PEND[i] <- 0`. -/
def State.clearPend (s : State) (i : Ident) : State := { s with pend := BitArray.clearBit i s.pend }

/-- `SUB[n]` (R24). -/
def State.subAt (s : State) (n : NodeId) : Bool := s.sub.read n

/-- `SUB[n] <- 1`. -/
def State.setSub (s : State) (n : NodeId) : State := { s with sub := BitArray.setBit n s.sub }

/-- `SUB[n] <- 0`. -/
def State.clearSub (s : State) (n : NodeId) : State := { s with sub := BitArray.clearBit n s.sub }

/-- `active(n)`: `SUB[n] = 1` or some `PEND[(n << 5) | c] = 1` for `c` in 0..31 (R25). -/
def State.active (s : State) (n : NodeId) : Bool :=
  s.subAt n || (List.range 32).any fun c => s.pendAt (mkIdent n.toNat c)

/-! ## Ending a request (R11) -/

/-- The response of the request, delivered in place of the latest one (R28, R29). -/
def State.respond (s : State) (r : Response) : State := { s with response := some r }

/-- `finish`: end the request with the response built so far and the state writes made so far (R11). -/
def finish (r : Response) (s : State) : Result := .next (s.respond r)

/-- `raise S`: end the request with STATUS = S, every other response field zero, no frame and no state
write (R11, R162). -/
def raise (st : Status) (s : State) : Result := finish { status := st } s

/-! ## The checks shared by several operations -/

/-- LEN > 8 makes a request that reads LEN illegal, before every other check (R74). The decoder refuses
such a request too; the check stands here as well so that a meaning is right for every instruction. -/
def withLen (len : LenBus) (s : State) (k : Result) : Result :=
  if lenOk len then k else raise .illegalRequest s

/-- `if NODE_IN >= 64 or CMD_IN >= 32: raise OUT_OF_RANGE`, else go on with the identifier
`(NODE_IN << 5) | CMD_IN` (R100, R130, R145, R146). -/
def withPair (node cmd : IdBus) (s : State) (k : Ident → Result) : Result :=
  if nodeInRange node && cmdInRange cmd then k (mkIdent node.toNat cmd.toNat) else raise .outOfRange s

/-- `if NODE_IN >= 64: raise OUT_OF_RANGE`, else go on with the node id (R150, R151). -/
def withNode (node : IdBus) (s : State) (k : NodeId → Result) : Result :=
  if nodeInRange node then k (BitVec.ofNat 6 node.toNat) else raise .outOfRange s

/-! ## Response fields -/

/-- F0..F3 of a response (R28). -/
def Response.withFields (r : Response) (f : Fields) : Response :=
  { r with f0 := f.v0, f1 := f.v1, f2 := f.v2, f3 := f.v3 }

/-- F0..F3 of a response read back as four buses. -/
def Response.fields (r : Response) : Fields := { v0 := r.f0, v1 := r.f1, v2 := r.f2, v3 := r.f3 }

/-- The response of ENC_S for a fixed shape (R110). -/
def encodedResponse (S : FixedShape) (ops : Fields) : Response :=
  { status := .ok, lenOut := BitVec.ofNat 4 (shapeLen S), payOut := encodeShape S ops }

/-- The fields and SHAPE_OUT a decode with a fixed shape sets (R111), for DEC_S and for RECV (R135). -/
def decodeFixedInto (S : FixedShape) (p : PayBus) (r : Response) : Response :=
  { r.withFields (decodeShape S p) with shapeOut := shapeCode S }

/-- LEN_OUT, PAY_OUT and SHAPE_OUT a raw endpoint decode sets (R126), for DEC_ENDPT and for RECV (R135). -/
def decodeEndptInto (len : LenBus) (p : PayBus) (r : Response) : Response :=
  { r with lenOut := len, payOut := copyBytes p len.toNat, shapeOut := endptCode }

/-- `emit TX(id, rtr, len, data)` with bytes LEN..7 zero (R11, R130, R131). -/
def emitInto (i : Ident) (rtr : Bool) (len : LenBus) (p : PayBus) (r : Response) : Response :=
  { r with txValid := true, txId := i, txRtr := rtr, txLen := len, txData := copyBytes p len.toNat }

/-- DEC_S for a fixed shape: too short is MALFORMED_PAYLOAD, else the decoded fields (R111). -/
def decodeFixed (S : FixedShape) (len : LenBus) (p : PayBus) (s : State) : Result :=
  withLen len s
    (if tooShort S len then raise .malformedPayload s else finish (decodeFixedInto S p { status := .ok }) s)

/-- CANCEL and TIMEOUT differ only in the terminal status they report (R145, R146). -/
def endPending (terminal : Status) (node cmd : IdBus) (s : State) : Result :=
  withPair node cmd s fun i =>
    if s.pendAt i then finish { status := terminal, idOut := i } (s.clearPend i)
    else finish { status := .notPending, idOut := i } s

/-! ## The frame handed to the transport (R69, R131) -/

/-- The format of a CAN frame (R69). -/
inductive FrameFormat where
  | standard
  | extended
deriving DecidableEq, Repr

/-- A frame on the transmit interface (R69). -/
structure Frame where
  format : FrameFormat
  rtr    : Bool
  id     : Ident
  len    : LenBus
  data   : PayBus
deriving DecidableEq, Repr

/-- The frame a response hands to the transport, always a standard one (R69, R131). -/
def Response.txFrame (r : Response) : Option Frame :=
  if r.txValid then
    some { format := .standard, rtr := r.txRtr, id := r.txId, len := r.txLen, data := r.txData }
  else none

/-! ## Reset of the block (R32, R180) -/

/-- Reset: every PEND and SUB bit 0, no response outstanding, configuration unchanged (R32, R180). The
requests still waiting are the agents', outside the block, and stay (log entry 5). -/
def State.resetBlock (s : State) : State :=
  { s with pend := [], sub := [], response := none, client := none }

end Sys2Proof.Machine
end

