-- ==== Sys2Proof/Machine/Codec.lean ====
section
/-! DEFINITION. The identifier codec operations (40_identifier_codec.md). -/

namespace Sys2Proof.Machine

/-- ID_PACK (R100). -/
def execIdPack (nodeIn cmdIn : IdBus) (s : State) : Result :=
  withPair nodeIn cmdIn s fun i => finish { status := .ok, idOut := i } s

/-- ID_FROM_RAW (R101). -/
def execIdFromRaw (rawIn : RawBus) (s : State) : Result :=
  finish { status := .ok, idOut := maskRaw rawIn } s

/-- ID_NODE (R102). -/
def execIdNode (idIn : Ident) (s : State) : Result :=
  finish { status := .ok, nodeOut := nodeOf idIn } s

/-- ID_CMD (R103). -/
def execIdCmd (idIn : Ident) (s : State) : Result :=
  finish { status := .ok, cmdOut := cmdOf idIn } s

/-- ID_RAW (R104). -/
def execIdRaw (idIn : Ident) (s : State) : Result :=
  finish { status := .ok, idOut := idIn } s

end Sys2Proof.Machine
end

