-- ==== Sys2Proof/Machine/Lifecycle.lean ====
section
/-! DEFINITION. The pending-request lifecycle and the telemetry subscriptions (42_dispatch.md sections 3 and
4). -/

namespace Sys2Proof.Machine

/-- CANCEL (R145). -/
def execCancel (nodeIn cmdIn : IdBus) (s : State) : Result := endPending .cancelled nodeIn cmdIn s

/-- TIMEOUT (R146). -/
def execTimeout (nodeIn cmdIn : IdBus) (s : State) : Result := endPending .timeout nodeIn cmdIn s

/-- SUBSCRIBE (R150). -/
def execSubscribe (nodeIn : IdBus) (s : State) : Result :=
  withNode nodeIn s fun n => finish { status := .ok, nodeOut := n } (s.setSub n)

/-- UNSUBSCRIBE (R151). -/
def execUnsubscribe (nodeIn : IdBus) (s : State) : Result :=
  withNode nodeIn s fun n => finish { status := .ok, nodeOut := n } (s.clearSub n)

end Sys2Proof.Machine
end

