-- ==== Sys2Proof/Machine/Marshal.lean ====
section
/-! DEFINITION. The payload marshaller operations (41_payload_marshal.md), one encoder and one decoder per
shape over the shape's field table. -/

namespace Sys2Proof.Machine

/-- ENC_EMPTY (R117). -/
def execEncEmpty (s : State) : Result := finish (encodedResponse .empty {}) s

/-- DEC_EMPTY (R118). -/
def execDecEmpty (len : LenBus) (payload : PayBus) (s : State) : Result := decodeFixed .empty len payload s

/-- ENC_BUSVI (R119). -/
def execEncBusvi (a0 a1 : FieldBus) (s : State) : Result :=
  finish (encodedResponse .busvi { v0 := a0, v1 := a1 }) s

/-- DEC_BUSVI (R120). -/
def execDecBusvi (len : LenBus) (payload : PayBus) (s : State) : Result := decodeFixed .busvi len payload s

/-- ENC_INPOS (R121). -/
def execEncInpos (a0 a1 a2 : FieldBus) (s : State) : Result :=
  finish (encodedResponse .inpos { v0 := a0, v1 := a1, v2 := a2 }) s

/-- DEC_INPOS (R122). -/
def execDecInpos (len : LenBus) (payload : PayBus) (s : State) : Result := decodeFixed .inpos len payload s

/-- ENC_HBEAT (R123). -/
def execEncHbeat (a0 a1 a2 a3 : FieldBus) (s : State) : Result :=
  finish (encodedResponse .hbeat { v0 := a0, v1 := a1, v2 := a2, v3 := a3 }) s

/-- DEC_HBEAT (R124). -/
def execDecHbeat (len : LenBus) (payload : PayBus) (s : State) : Result := decodeFixed .hbeat len payload s

/-- ENC_ENDPT (R125). -/
def execEncEndpt (len : LenBus) (payload : PayBus) (s : State) : Result :=
  withLen len s (finish { status := .ok, lenOut := len, payOut := copyBytes payload len.toNat } s)

/-- DEC_ENDPT (R126). -/
def execDecEndpt (len : LenBus) (payload : PayBus) (s : State) : Result :=
  withLen len s (finish (decodeEndptInto len payload { status := .ok }) s)

end Sys2Proof.Machine
end

