-- ==== Sys2Proof/Machine/SendRecv.lean ====
section
/-! DEFINITION. The send path and the receive path of the dispatcher (42_dispatch.md sections 1 and 2). -/

namespace Sys2Proof.Machine

/-- SEND (R130): range, then BUSY when a reply is expected and one is pending, then the pending entry and
the frame. -/
def execSend (e r : Bool) (nodeIn cmdIn : IdBus) (len : LenBus) (payload : PayBus) (s : State) : Result :=
  withLen len s
    (withPair nodeIn cmdIn s fun i =>
      if e && s.pendAt i then raise .busy s
      else finish (emitInto i r len payload { status := .ok, idOut := i }) (if e then s.setPend i else s))

/-- The end of the receive path for a decoded frame (R135): a pending request completes, else telemetry is
UNSOLICITED, else DISCARDED. `r` holds the decoded fields; its status is set here. -/
def deliver (i : Ident) (telemetry : Bool) (r : Response) (s : State) : Result :=
  if s.pendAt i then finish { r with status := .completed } (s.clearPend i)
  else if telemetry then finish { r with status := .unsolicited } s
  else finish { r with status := .discarded } s

/-- What a RECV report names of its frame: ID_OUT, NODE_OUT, CMD_OUT (R135, R162). -/
def frameReport (st : Status) (i : Ident) : Response :=
  { status := st, idOut := i, nodeOut := nodeOf i, cmdOut := cmdOf i }

/-- RECV (R135), tests in the normative order of R136: format, node filter, command lookup, length, pending
match, telemetry. -/
def execRecv (r x : Bool) (idIn : Ident) (len : LenBus) (payload : PayBus) (s : State) : Result :=
  withLen len s
    (if x || r then raise .ignoredFormat s
    else if !s.active (nodeOf idIn) then finish (frameReport .ignoredNode idIn) s
    else
      match classify s.cfg (cmdOf idIn) with
      | .unknown => finish (frameReport .unknownCommand idIn) s
      | .endpoint => deliver idIn false (decodeEndptInto len payload (frameReport .discarded idIn)) s
      | .fixed entry =>
        if tooShort entry.rxShape len then finish (frameReport .malformedPayload idIn) s
        else
          deliver idIn entry.telemetry
            (decodeFixedInto entry.rxShape payload (frameReport .discarded idIn)) s)

end Sys2Proof.Machine
end

