-- ==== Sys2Proof/Machine/Dispatch.lean ====
section
/-! DEFINITION. One arm per operation of the opcode table. -/

namespace Sys2Proof.Machine

def exec (i : Instr) (s : State) : Host.Outcome State Fault Refusal :=
  match i with
  | .idPack nodeIn cmdIn => Sys2Proof.Machine.execIdPack nodeIn cmdIn s
  | .idFromRaw rawIn => Sys2Proof.Machine.execIdFromRaw rawIn s
  | .idNode idIn => Sys2Proof.Machine.execIdNode idIn s
  | .idCmd idIn => Sys2Proof.Machine.execIdCmd idIn s
  | .idRaw idIn => Sys2Proof.Machine.execIdRaw idIn s
  | .encEmpty => Sys2Proof.Machine.execEncEmpty s
  | .decEmpty len payload => Sys2Proof.Machine.execDecEmpty len payload s
  | .encBusvi a0 a1 => Sys2Proof.Machine.execEncBusvi a0 a1 s
  | .decBusvi len payload => Sys2Proof.Machine.execDecBusvi len payload s
  | .encInpos a0 a1 a2 => Sys2Proof.Machine.execEncInpos a0 a1 a2 s
  | .decInpos len payload => Sys2Proof.Machine.execDecInpos len payload s
  | .encHbeat a0 a1 a2 a3 => Sys2Proof.Machine.execEncHbeat a0 a1 a2 a3 s
  | .decHbeat len payload => Sys2Proof.Machine.execDecHbeat len payload s
  | .encEndpt len payload => Sys2Proof.Machine.execEncEndpt len payload s
  | .decEndpt len payload => Sys2Proof.Machine.execDecEndpt len payload s
  | .send e r nodeIn cmdIn len payload => Sys2Proof.Machine.execSend e r nodeIn cmdIn len payload s
  | .recv r x idIn len payload => Sys2Proof.Machine.execRecv r x idIn len payload s
  | .cancel nodeIn cmdIn => Sys2Proof.Machine.execCancel nodeIn cmdIn s
  | .timeout nodeIn cmdIn => Sys2Proof.Machine.execTimeout nodeIn cmdIn s
  | .subscribe nodeIn => Sys2Proof.Machine.execSubscribe nodeIn s
  | .unsubscribe nodeIn => Sys2Proof.Machine.execUnsubscribe nodeIn s

end Sys2Proof.Machine
end

