-- ==== Sys2Proof/Machine/Port.lean ====
section
/-! DEFINITION. The request port: how the next request is taken (R3, R21, R53, R172), and how an agent
presents one. The block has no program counter and fetches nothing (R21); its program is the sequence of
requests the two agents present, served one at a time in the order ARB chooses. -/

namespace Sys2Proof.Machine

/-- The requests an agent has presented and the block has not served, oldest first (R53, R172). -/
def State.queue (s : State) : Agent → List Request
  | .host => s.hostQ
  | .transport => s.transportQ

/-- The state with an agent's queue replaced. -/
def State.setQueue (s : State) (a : Agent) (q : List Request) : State :=
  match a with
  | .host => { s with hostQ := q }
  | .transport => { s with transportQ := q }

/-- An agent presents one more request, behind those it already presented (R172: each agent's own order is
kept). -/
def State.present (s : State) (a : Agent) (r : Request) : State := s.setQueue a (s.queue a ++ [r])

/-- What the port does next. -/
inductive Fetched where
  | idle (s : State)
  | reset (s : State)
  | request (r : Request) (s : State)
deriving DecidableEq, Repr

/-- The request `r` of agent `a` is taken: `rest` stays in `a`'s queue, the turn that decided it is spent,
and the response will be `a`'s. -/
def State.take (s : State) (a : Agent) (rest : List Request) : State :=
  { s.setQueue a rest with schedule := s.schedule.tail, served := s.served + 1, client := some a }

/-- ARB when both agents wait (R172): the granted agent, else the free value. -/
def State.choice (s : State) : Agent :=
  match s.schedule with
  | .grant a :: _ => a
  | _ => Config.arb s.served

/-- What the port does next: a scheduled reset (between requests, R180); else the only waiting agent's
oldest request, or the chosen agent's when both wait; else nothing: "the block ... never acts unprompted"
(R171). A granted agent with nothing waiting gives its turn to the other one (log entry 6). -/
def fetch (s : State) : Fetched :=
  match s.schedule with
  | .reset :: turns => .reset { s with schedule := turns }
  | _ =>
    match s.hostQ, s.transportQ with
    | [], [] => .idle { s with schedule := s.schedule.tail }
    | r :: rest, [] => .request r (s.take .host rest)
    | [], r :: rest => .request r (s.take .transport rest)
    | rh :: resth, rt :: restt =>
      match s.choice with
      | .host => .request rh (s.take .host resth)
      | .transport => .request rt (s.take .transport restt)

/-- The agent R171 names for an operation code: the transport issues RECV and TIMEOUT, the host the
others. The block refuses no agent any operation (R170); only `withFetchWord` uses this (log entry 16). -/
def issuer (r : Request) : Agent :=
  if r.op = 0x11 ∨ r.op = 0x13 then .transport else .host

/-- The state with request `r` the very next to be served: first in its issuer's queue, and the next turn
granted to that agent. -/
def State.presentFirst (s : State) (r : Request) : State :=
  { s.setQueue (issuer r) (r :: s.queue (issuer r)) with schedule := .grant (issuer r) :: s.schedule }

end Sys2Proof.Machine
end

