-- ==== Sys2Proof/Machine/Step.lean ====
section
/-! DEFINITION. One step: the port takes the next request, the decoder reads it, and its operation runs to
its end (R12: atomically). An illegal request raises ILLEGAL_REQUEST before anything else (R74). -/

namespace Sys2Proof.Machine

/-- One step of the block. With no request waiting and no reset scheduled nothing changes but the spent
turn. -/
def step (s : State) : Host.Outcome State Fault Refusal :=
  match fetch s with
  | .idle t => .next t
  | .reset t => .next t.resetBlock
  | .request r t =>
    match decode r with
    | .ok i => exec i t
    | .error _ => raise .illegalRequest t

/-- The state with the request whose CTRL is the opcode-table word `w` (operand buses 0) the very next to
be served: it stands first in its issuer's queue and ARB's next turn is that agent's (log entry 4). -/
def State.withFetchWord (s : State) (nbits w : Nat) : State := s.presentFirst (requestOfWord nbits w)

end Sys2Proof.Machine
end

