-- ==== Sys2Proof/Machine/Pseudo.lean ====
section
/-! DEFINITION. The request syntax of R77, as a structured line and not as text, with its assembler and
disassembler; and the pseudo-requests of R78, each as the request or requests it stands for. -/

namespace Sys2Proof.Machine

/-! ## Request syntax (R77) -/

/-- The operand names of R77, one for each bus, in lower case; `data` lists payload bytes, byte 0 first. -/
inductive AsmOperand where
  | node (v : Nat)
  | cmd (v : Nat)
  | raw (v : Nat)
  | id (v : Nat)
  | a0 (v : Nat)
  | a1 (v : Nat)
  | a2 (v : Nat)
  | a3 (v : Nat)
  | len (v : Nat)
  | data (bytes : List Nat)
deriving DecidableEq, Repr

/-- The flags `.E`, `.R`, `.X` (R77). -/
inductive AsmFlag where
  | e
  | r
  | x
deriving DecidableEq, Repr

/-- `MNEMONIC[.flag...] operand=value, ...` (R77). The mnemonic is held as its OP code of R72 (log entry 15). -/
structure AsmLine where
  op       : CtrlWord
  flags    : List AsmFlag := []
  operands : List AsmOperand := []
deriving DecidableEq, Repr

/-- Payload bytes onto the bus, byte 0 at bits 7..0 (R41, R77). -/
def dataBytes : List Nat → Nat → PayBus → PayBus
  | [], _, p => p
  | b :: bs, k, p => dataBytes bs (k + 1) (setByte p k (BitVec.ofNat 8 b))

/-- One written operand onto its bus (R77). -/
def AsmOperand.onto (q : Request) : AsmOperand → Request
  | .node v => { q with nodeIn := BitVec.ofNat 8 v }
  | .cmd v => { q with cmdIn := BitVec.ofNat 8 v }
  | .raw v => { q with rawIn := BitVec.ofNat 16 v }
  | .id v => { q with idIn := BitVec.ofNat 11 v }
  | .a0 v => { q with a0 := BitVec.ofNat 32 v }
  | .a1 v => { q with a1 := BitVec.ofNat 32 v }
  | .a2 v => { q with a2 := BitVec.ofNat 32 v }
  | .a3 v => { q with a3 := BitVec.ofNat 32 v }
  | .len v => { q with len := BitVec.ofNat 4 v }
  | .data bytes => { q with payload := dataBytes bytes 0 0 }

/-- The request of a line: CTRL from the mnemonic and the flags, each written operand on its bus, "an
operand not written is 0" (R77). -/
def AsmLine.assemble (l : AsmLine) : Request :=
  l.operands.foldl AsmOperand.onto
    { ctrl := ctrlWord l.op (l.flags.contains .e) (l.flags.contains .r) (l.flags.contains .x) }

/-- The first `n` bytes of a payload, byte 0 first. -/
def listBytes (p : PayBus) (n : Nat) : List Nat := (List.range n).map fun k => (byteAt p k).toNat

/-- The operands of a line with a payload: LEN and its LEN bytes (R77). -/
def payloadOperands (len : LenBus) (p : PayBus) : List AsmOperand :=
  [.len len.toNat, .data (listBytes p len.toNat)]

/-- The line of an instruction (R77): payload bytes at index >= LEN are no part of the frame (R13) and are
not written. -/
def asmOf : Instr → AsmLine
  | .idPack n c => { op := 0x01, operands := [.node n.toNat, .cmd c.toNat] }
  | .idFromRaw w => { op := 0x02, operands := [.raw w.toNat] }
  | .idNode i => { op := 0x03, operands := [.id i.toNat] }
  | .idCmd i => { op := 0x04, operands := [.id i.toNat] }
  | .idRaw i => { op := 0x05, operands := [.id i.toNat] }
  | .encEmpty => { op := 0x06 }
  | .decEmpty len p => { op := 0x07, operands := payloadOperands len p }
  | .encBusvi x0 x1 => { op := 0x08, operands := [.a0 x0.toNat, .a1 x1.toNat] }
  | .decBusvi len p => { op := 0x09, operands := payloadOperands len p }
  | .encInpos x0 x1 x2 => { op := 0x0A, operands := [.a0 x0.toNat, .a1 x1.toNat, .a2 x2.toNat] }
  | .decInpos len p => { op := 0x0B, operands := payloadOperands len p }
  | .encHbeat x0 x1 x2 x3 =>
    { op := 0x0C, operands := [.a0 x0.toNat, .a1 x1.toNat, .a2 x2.toNat, .a3 x3.toNat] }
  | .decHbeat len p => { op := 0x0D, operands := payloadOperands len p }
  | .encEndpt len p => { op := 0x0E, operands := payloadOperands len p }
  | .decEndpt len p => { op := 0x0F, operands := payloadOperands len p }
  | .send e r n c len p =>
    { op := 0x10, flags := (if e then [.e] else []) ++ (if r then [.r] else []),
      operands := [.node n.toNat, .cmd c.toNat] ++ payloadOperands len p }
  | .recv r x i len p =>
    { op := 0x11, flags := (if r then [.r] else []) ++ (if x then [.x] else []),
      operands := .id i.toNat :: payloadOperands len p }
  | .cancel n c => { op := 0x12, operands := [.node n.toNat, .cmd c.toNat] }
  | .timeout n c => { op := 0x13, operands := [.node n.toNat, .cmd c.toNat] }
  | .subscribe n => { op := 0x14, operands := [.node n.toNat] }
  | .unsubscribe n => { op := 0x15, operands := [.node n.toNat] }

/-! ## Pseudo-requests (R78) -/

/-- `GETREQ node=n, cmd=c` is `SEND.E node=n, cmd=c, len=0` (R78). -/
def getReq (n c : IdBus) : Instr := .send true false n c 0 0

/-- `MKID node=n, cmd=c` is `ID_PACK node=n, cmd=c` (R78). -/
def mkId (n c : IdBus) : Instr := .idPack n c

/-- The first request of `CMDSEND.<shape>`: ENC_<shape> with the operands A0..A3 the shape reads (R78). R78
does not say which shapes `<shape>` ranges over. DESIGN CHOICE (log entry 21): the four fixed shapes; its
operand list has only a0..a3, which ENC_ENDPT does not read. -/
def cmdSendEncode (S : FixedShape) (ops : Fields) : Instr :=
  match S with
  | .empty => .encEmpty
  | .busvi => .encBusvi ops.v0 ops.v1
  | .inpos => .encInpos ops.v0 ops.v1 ops.v2
  | .hbeat => .encHbeat ops.v0 ops.v1 ops.v2 ops.v3

/-- The second request of CMDSEND: `SEND[.E]` with LEN_OUT and PAY_OUT of the first response, which the
host copies (R78). -/
def cmdSendSend (e : Bool) (n c : IdBus) (first : Response) : Instr :=
  .send e false n c first.lenOut first.payOut

/-- The encoder the host uses for an outbound payload of command `c` (R127): ENC_S for the command's
outbound shape, from the field operands or, for an endpoint id, from the raw bytes; none when the local side
never sends the command. -/
def hostEncode (cfg : CmdConfig) (c : CmdId) (ops : Fields) (len : LenBus) (payload : PayBus) :
    Option Instr :=
  match outboundShape cfg c with
  | some (.fixed S) => some (cmdSendEncode S ops)
  | some .endpt => some (.encEndpt len payload)
  | none => none

end Sys2Proof.Machine
end

