-- ==== Sys2Proof/Safety.lean ====
section
/-! DEFINITION. The terms the claims use: the response an operation answers, what a sound response and a
sound state are, which operation may report which status and set which response field, and the bookkeeping
of pending requests along a run. -/

namespace Sys2Proof.Machine

/-- The response an operation answers in a state (R28). -/
def answer (i : Instr) (s : State) : Option Response :=
  match exec i s with
  | .next t => t.response
  | .fault _ => none
  | .refused _ => none

/-- The decoder of a fixed shape (R111). -/
def decInstr : FixedShape → LenBus → PayBus → Instr
  | .empty, len, p => .decEmpty len p
  | .busvi, len, p => .decBusvi len p
  | .inpos, len, p => .decInpos len p
  | .hbeat, len, p => .decHbeat len p

/-- The codec and marshaller operations, which read and write no state (R48). -/
def stateless : Instr → Bool
  | .idPack _ _ => true
  | .idFromRaw _ => true
  | .idNode _ => true
  | .idCmd _ => true
  | .idRaw _ => true
  | .encEmpty => true
  | .decEmpty _ _ => true
  | .encBusvi _ _ => true
  | .decBusvi _ _ => true
  | .encInpos _ _ _ => true
  | .decInpos _ _ => true
  | .encHbeat _ _ _ _ => true
  | .decHbeat _ _ => true
  | .encEndpt _ _ => true
  | .decEndpt _ _ => true
  | .send _ _ _ _ _ _ => false
  | .recv _ _ _ _ _ => false
  | .cancel _ _ => false
  | .timeout _ _ => false
  | .subscribe _ => false
  | .unsubscribe _ => false

/-- The "reported by" column of R161, by OP code. -/
def reportedBy (st : Status) (i : Instr) : Bool :=
  match st with
  | .ok => !([0x11, 0x12, 0x13].contains i.opcode.toNat)
  | .outOfRange => [0x01, 0x10, 0x12, 0x13, 0x14, 0x15].contains i.opcode.toNat
  | .malformedPayload => [0x09, 0x0B, 0x0D, 0x11].contains i.opcode.toNat
  | .unknownCommand => i.opcode.toNat == 0x11
  | .timeout => i.opcode.toNat == 0x13
  | .cancelled => i.opcode.toNat == 0x12
  | .busy => i.opcode.toNat == 0x10
  | .illegalRequest => true
  | .completed => i.opcode.toNat == 0x11
  | .unsolicited => i.opcode.toNat == 0x11
  | .discarded => i.opcode.toNat == 0x11
  | .ignoredNode => i.opcode.toNat == 0x11
  | .ignoredFormat => i.opcode.toNat == 0x11
  | .notPending => [0x12, 0x13].contains i.opcode.toNat

/-- A response cut to the fields its operation may set, the "may set" column of R75. -/
def onlyMaySet : Instr → Response → Response
  | .idPack _ _, r => { status := r.status, idOut := r.idOut }
  | .idFromRaw _, r => { status := r.status, idOut := r.idOut }
  | .idNode _, r => { status := r.status, nodeOut := r.nodeOut }
  | .idCmd _, r => { status := r.status, cmdOut := r.cmdOut }
  | .idRaw _, r => { status := r.status, idOut := r.idOut }
  | .encEmpty, r => { status := r.status, lenOut := r.lenOut, payOut := r.payOut }
  | .decEmpty _ _, r => { status := r.status, shapeOut := r.shapeOut }
  | .encBusvi _ _, r => { status := r.status, lenOut := r.lenOut, payOut := r.payOut }
  | .decBusvi _ _, r => { status := r.status, shapeOut := r.shapeOut, f0 := r.f0, f1 := r.f1 }
  | .encInpos _ _ _, r => { status := r.status, lenOut := r.lenOut, payOut := r.payOut }
  | .decInpos _ _, r => { status := r.status, shapeOut := r.shapeOut, f0 := r.f0, f1 := r.f1, f2 := r.f2 }
  | .encHbeat _ _ _ _, r => { status := r.status, lenOut := r.lenOut, payOut := r.payOut }
  | .decHbeat _ _, r =>
    { status := r.status, shapeOut := r.shapeOut, f0 := r.f0, f1 := r.f1, f2 := r.f2, f3 := r.f3 }
  | .encEndpt _ _, r => { status := r.status, lenOut := r.lenOut, payOut := r.payOut }
  | .decEndpt _ _, r =>
    { status := r.status, shapeOut := r.shapeOut, lenOut := r.lenOut, payOut := r.payOut }
  | .send _ _ _ _ _ _, r =>
    { status := r.status, idOut := r.idOut, txValid := r.txValid, txId := r.txId, txRtr := r.txRtr,
      txLen := r.txLen, txData := r.txData }
  | .recv _ _ _ _ _, r =>
    { r with txValid := false, txId := 0, txRtr := false, txLen := 0, txData := 0 }
  | .cancel _ _, r => { status := r.status, idOut := r.idOut }
  | .timeout _ _, r => { status := r.status, idOut := r.idOut }
  | .subscribe _, r => { status := r.status, nodeOut := r.nodeOut }
  | .unsubscribe _, r => { status := r.status, nodeOut := r.nodeOut }

/-- A request with its CTRL and only the buses its operation reads, the "reads" column of R75; the others at
0. -/
def onlyReads : Instr → Request → Request
  | .idPack _ _, q => { ctrl := q.ctrl, nodeIn := q.nodeIn, cmdIn := q.cmdIn }
  | .idFromRaw _, q => { ctrl := q.ctrl, rawIn := q.rawIn }
  | .idNode _, q => { ctrl := q.ctrl, idIn := q.idIn }
  | .idCmd _, q => { ctrl := q.ctrl, idIn := q.idIn }
  | .idRaw _, q => { ctrl := q.ctrl, idIn := q.idIn }
  | .encEmpty, q => { ctrl := q.ctrl }
  | .decEmpty _ _, q => { ctrl := q.ctrl, len := q.len, payload := q.payload }
  | .encBusvi _ _, q => { ctrl := q.ctrl, a0 := q.a0, a1 := q.a1 }
  | .decBusvi _ _, q => { ctrl := q.ctrl, len := q.len, payload := q.payload }
  | .encInpos _ _ _, q => { ctrl := q.ctrl, a0 := q.a0, a1 := q.a1, a2 := q.a2 }
  | .decInpos _ _, q => { ctrl := q.ctrl, len := q.len, payload := q.payload }
  | .encHbeat _ _ _ _, q => { ctrl := q.ctrl, a0 := q.a0, a1 := q.a1, a2 := q.a2, a3 := q.a3 }
  | .decHbeat _ _, q => { ctrl := q.ctrl, len := q.len, payload := q.payload }
  | .encEndpt _ _, q => { ctrl := q.ctrl, len := q.len, payload := q.payload }
  | .decEndpt _ _, q => { ctrl := q.ctrl, len := q.len, payload := q.payload }
  | .send _ _ _ _ _ _, q =>
    { ctrl := q.ctrl, nodeIn := q.nodeIn, cmdIn := q.cmdIn, len := q.len, payload := q.payload }
  | .recv _ _ _ _ _, q => { ctrl := q.ctrl, idIn := q.idIn, len := q.len, payload := q.payload }
  | .cancel _ _, q => { ctrl := q.ctrl, nodeIn := q.nodeIn, cmdIn := q.cmdIn }
  | .timeout _ _, q => { ctrl := q.ctrl, nodeIn := q.nodeIn, cmdIn := q.cmdIn }
  | .subscribe _, q => { ctrl := q.ctrl, nodeIn := q.nodeIn }
  | .unsubscribe _, q => { ctrl := q.ctrl, nodeIn := q.nodeIn }

/-- A response as the rules shape it. -/
structure Response.Sound (r : Response) : Prop where
  /-- LEN_OUT and TX_LEN are 0..8 (R28). -/
  lenOut_le : r.lenOut.toNat ≤ 8
  txLen_le : r.txLen.toNat ≤ 8
  /-- SHAPE_OUT is never 6 or 7 (R66). -/
  shape_le : r.shapeOut.toNat ≤ 5
  /-- Payload bytes at index >= the length are zero (R110, R125, R130). -/
  payOut_zero : ∀ j < 8, r.lenOut.toNat ≤ j → byteAt r.payOut j = 0
  txData_zero : ∀ j < 8, r.txLen.toNat ≤ j → byteAt r.txData j = 0
  /-- No frame: the transmit fields are zero (R12). -/
  noFrame : r.txValid = false → r.txId = 0 ∧ r.txRtr = false ∧ r.txLen = 0 ∧ r.txData = 0
  /-- A frame: the request succeeded, and the frame's identifier is the one reported (R130, R131). -/
  frame : r.txValid = true → r.status = .ok ∧ r.txId = r.idOut
  /-- The raised outcomes carry only STATUS (R162). -/
  raised : r.status ∈ [Status.outOfRange, .busy, .illegalRequest, .ignoredFormat] →
    r = { status := r.status }
  /-- MALFORMED_PAYLOAD carries only STATUS, or names its frame (R162). -/
  malformed : r.status = .malformedPayload →
    r = { status := r.status } ∨ r = frameReport .malformedPayload r.idOut
  /-- IGNORED_NODE and UNKNOWN_COMMAND name their frame and nothing else (R162). -/
  reported : r.status ∈ [Status.ignoredNode, .unknownCommand] → r = frameReport r.status r.idOut
  /-- CANCEL's and TIMEOUT's outcomes carry ID_OUT and nothing else (R162). -/
  lifecycle : r.status ∈ [Status.cancelled, .timeout, .notPending] →
    r = { status := r.status, idOut := r.idOut }
  /-- A decoded frame's outcome names its frame (R135). -/
  decoded : r.status ∈ [Status.completed, .unsolicited, .discarded] →
    r.nodeOut = nodeOf r.idOut ∧ r.cmdOut = cmdOf r.idOut ∧ r.shapeOut ≠ 0

/-- A sound state: PEND and SUB in canonical form, a configuration R9 admits, a sound latest response. -/
structure State.Inv (s : State) : Prop where
  pend_wf : s.pend.wf
  sub_wf : s.sub.wf
  cfg_valid : s.cfg.valid = true
  response_sound : ∀ r, s.response = some r → r.Sound

/-! ## Pending requests along a run -/

/-- The state after `k` steps. -/
def after : Nat → State → State
  | 0, s => s
  | k + 1, s =>
    match step s with
    | .next t => after k t
    | .fault _ => s
    | .refused _ => s

/-- The status and ID_OUT of the request the next step serves, if it serves one. -/
def servedReport (s : State) : Option (Status × Ident) :=
  match fetch s, step s with
  | .request _ _, .next t => t.response.map fun r => (r.status, r.idOut)
  | _, _ => none

/-- The next step serves a SEND with E = 1 for identifier `j` and answers OK. -/
def opensAt (j : Ident) (s : State) : Bool :=
  match fetch s with
  | .request q _ =>
    match decode q with
    | .ok (.send true _ n c _ _) => mkIdent n.toNat c.toNat == j && servedReport s == some (.ok, j)
    | _ => false
  | _ => false

/-- The next step serves a request and reports COMPLETED, TIMEOUT or CANCELLED with ID_OUT = `j` (R23,
R169). -/
def closesAt (j : Ident) (s : State) : Bool :=
  servedReport s == some (.completed, j) || servedReport s == some (.timeout, j) ||
    servedReport s == some (.cancelled, j)

/-- How many of the next `k` steps are such that `f` holds before them. -/
def countAlong (f : State → Bool) : Nat → State → Nat
  | 0, _ => 0
  | k + 1, s => (f s).toNat + countAlong f k (after 1 s)

end Sys2Proof.Machine
end

