-- ==== Sys2Proof/Certificates/Slice0/Obligations.lean ====
section
/-! DEFINITION. The statements for the provers. Next states are written out (`{ s with ... }`) and results
are written in other words than the model's own (numbers, bit fields, concatenation), so that a statement
does not repeat a definition. A statement about every state is a statement about every configuration, since
the configuration is a field of the state. -/

open Sys2Proof Sys2Proof.Machine

/-! ## Encoding and the request port -/

/-- Every instruction's request decodes to it, with every operand and flag; one whose LEN is over 8 is
refused as such (R70 to R75, R77). -/
def Obligations.DecodeOfEncode : Prop :=
  ∀ i : Instr, decode (encode i) = if i.wf then .ok i else .error .lenOver8

/-- A request that decodes is, on its CTRL and on the buses its operation reads (R75), the encoding of the
well-formed instruction it decodes to; and what stands on the other buses does not matter: every request that
agrees with it on those decodes to the same instruction (R72 to R75). -/
def Obligations.LegalRequestIsItsEncoding : Prop :=
  ∀ (q : Request) (i : Instr), decode q = .ok i →
    i.wf = true ∧ encode i = onlyReads i q ∧ ∀ q', onlyReads i q' = onlyReads i q → decode q' = .ok i

/-- Sanity: CTRL words written out from R71 and R72 decode to the operations they stand for. -/
def Obligations.SpecCtrlWordsDecode : Prop :=
  decodeTableWord 16 0b0000000000000001 = some (.idPack 0 0) ∧
  decodeTableWord 16 0b0000000000000101 = some (.idRaw 0) ∧
  decodeTableWord 16 0b0000000000001010 = some (.encInpos 0 0 0) ∧
  decodeTableWord 16 0b0000000000001101 = some (.decHbeat 0 0) ∧
  decodeTableWord 16 0b0000000001110000 = some (.send true true 0 0 0 0) ∧
  decodeTableWord 16 0b0000000010010001 = some (.recv false true 0 0 0) ∧
  decodeTableWord 16 0b0000000000010010 = some (.cancel 0 0) ∧
  decodeTableWord 16 0b0000000000010101 = some (.unsubscribe 0) ∧
  decodeTableWord 16 0b0000000000000000 = none ∧
  decodeTableWord 16 0b0000000000010110 = none ∧
  decodeTableWord 16 0b0000000100000001 = none

/-- R77: the line of a well-formed instruction in the request syntax assembles to a request that decodes to
the same operation, with the same flags and LEN, and acts the same in every state. (A line does not write
payload bytes at index >= LEN, so they may differ.) -/
def Obligations.AssembledLineActsTheSame : Prop :=
  ∀ i : Instr, i.wf = true → ∃ j, decode (asmOf i).assemble = .ok j ∧ j.opcode = i.opcode ∧
    j.flagE = i.flagE ∧ j.flagR = i.flagR ∧ j.flagX = i.flagX ∧ j.lenOperand = i.lenOperand ∧
    ∀ s, exec j s = exec i s

/-- R73 and R74: the request the port takes is illegal exactly under the listed conditions on CTRL and LEN
(written here on the number CTRL), whatever its other buses hold; then the step answers ILLEGAL_REQUEST with
every other field zero and writes no state, and otherwise the step runs the decoded instruction. -/
def Obligations.IllegalRequestAnsweredFirst : Prop :=
  ∀ (s t : State) (q : Request), fetch s = .request q t →
    let op := q.ctrl.toNat % 32
    let illegal :=
      op = 0 ∨ 0x16 ≤ op ∨ q.ctrl.toNat / 256 ≠ 0 ∨ (q.ctrl.toNat / 32 % 2 = 1 ∧ op ≠ 0x10) ∨
        (q.ctrl.toNat / 64 % 2 = 1 ∧ op ≠ 0x10 ∧ op ≠ 0x11) ∨ (q.ctrl.toNat / 128 % 2 = 1 ∧ op ≠ 0x11) ∨
        (op ∈ [0x07, 0x09, 0x0B, 0x0D, 0x0E, 0x0F, 0x10, 0x11] ∧ 8 < q.len.toNat)
    (illegal →
      step s = .next { t with response := some { status := .illegalRequest } } ∧
        t.pend = s.pend ∧ t.sub = s.sub) ∧
    (¬illegal → ∃ i, decode q = .ok i ∧ i.wf = true ∧ step s = exec i t)

/-- A step runs the decoded instruction (R52, R172: one request, the oldest of the agent that is served), with
the request removed from its queue, the turn spent, the count of requests served one higher and the agent
recorded as the one answered. Which agent is served is the model's form of the open ARB: the granted agent
(log entry 3); a granted agent with nothing waiting gives its turn to the other one (log entry 6, DESIGN
CHOICE, no rule of the spec); with nothing scheduled, the only waiting agent or the one the free value names
(log entry 3). Queues, turns, count and agent field are the model's own (log entries 3, 4 and 8). -/
def Obligations.StepRunsDecodedRequest : Prop :=
  ∀ (s : State) (q : Request) (i : Instr) (a b : Agent) (rest : List Request) (turns : List Turn),
    decode q = .ok i →
    (s.schedule = .grant a :: turns → s.queue a = q :: rest →
      step s = exec i { s.setQueue a rest with
        schedule := turns, served := s.served + 1, client := some a }) ∧
    (s.schedule = .grant a :: turns → a ≠ b → s.queue a = [] → s.queue b = q :: rest →
      step s = exec i { s.setQueue b rest with
        schedule := turns, served := s.served + 1, client := some b }) ∧
    (s.schedule = [] → a ≠ b → s.queue a = q :: rest → s.queue b = [] →
      step s = exec i { s.setQueue a rest with served := s.served + 1, client := some a }) ∧
    (s.schedule = [] → s.queue (Config.arb s.served) = q :: rest →
      step s = exec i { s.setQueue (Config.arb s.served) rest with
        served := s.served + 1, client := some (Config.arb s.served) })

/-- The state with an opcode-table word presented first runs exactly that word's instruction, and nothing of
the presenting is left behind (the model's own way to present a request, log entries 4 and 16). -/
def Obligations.FetchWordRunsNext : Prop :=
  ∀ (s : State) (nbits w : Nat) (i : Instr), decodeTableWord nbits w = some i →
    step (s.withFetchWord nbits w) =
      exec i { s with served := s.served + 1, client := some (issuer (requestOfWord nbits w)) }

/-- R53 and R172: a step serves at most one request, the oldest of one agent, and leaves every other request
waiting in its place; the served agent is the one answered. The first alternative is a step that serves
nothing: an idle step (log entry 6) or a scheduled reset. That a reset leaves the waiting requests and the
count as they are is the model's choice (log entry 5, DESIGN CHOICE, unsafe): the spec says nothing of the
requests waiting at a reset. -/
def Obligations.ServiceKeepsEachAgentsOrder : Prop :=
  ∀ s t : State, step s = .next t →
    (t.hostQ = s.hostQ ∧ t.transportQ = s.transportQ ∧ t.served = s.served) ∨
    (∃ q r, s.hostQ = q :: t.hostQ ∧ t.transportQ = s.transportQ ∧ t.served = s.served + 1 ∧
      t.client = some .host ∧ t.response = some r) ∨
    (∃ q r, s.transportQ = q :: t.transportQ ∧ t.hostQ = s.hostQ ∧ t.served = s.served + 1 ∧
      t.client = some .transport ∧ t.response = some r)

/-- R165 and R166: no step faults or is refused; after any outcome the next request is served. -/
def Obligations.EveryStepAnswersNext : Prop :=
  (∀ s : State, ∃ t, step s = .next t) ∧ ∀ (i : Instr) (s : State), ∃ t r, exec i s = .next t ∧
    t.response = some r

/-! ## The identifier codec -/

/-- ID_PACK (R100): the identifier is `32 * node + command`, or OUT_OF_RANGE alone. -/
def Obligations.IdPackPacksOrRejects : Prop :=
  ∀ (n c : IdBus) (s : State),
    decode { ctrl := 0x0001, nodeIn := n, cmdIn := c } = .ok (.idPack n c) ∧
    (n.toNat < 64 → c.toNat < 32 →
      exec (.idPack n c) s =
        .next { s with
          response := some { status := .ok, idOut := BitVec.ofNat 11 (32 * n.toNat + c.toNat) } }) ∧
    (64 ≤ n.toNat ∨ 32 ≤ c.toNat →
      exec (.idPack n c) s = .next { s with response := some { status := .outOfRange } })

/-- ID_FROM_RAW, ID_NODE, ID_CMD and ID_RAW (R101 to R104): always OK, with the low 11 bits, the quotient by
32, the remainder by 32, the identifier itself. -/
def Obligations.IdAccessorsAlwaysSucceed : Prop :=
  ∀ (w : RawBus) (i : Ident) (s : State),
    decode { ctrl := 0x0002, rawIn := w } = .ok (.idFromRaw w) ∧
    decode { ctrl := 0x0003, idIn := i } = .ok (.idNode i) ∧
    decode { ctrl := 0x0004, idIn := i } = .ok (.idCmd i) ∧
    decode { ctrl := 0x0005, idIn := i } = .ok (.idRaw i) ∧
    exec (.idFromRaw w) s =
      .next { s with response := some { status := .ok, idOut := BitVec.ofNat 11 (w.toNat % 2048) } } ∧
    exec (.idNode i) s =
      .next { s with response := some { status := .ok, nodeOut := BitVec.ofNat 6 (i.toNat / 32) } } ∧
    exec (.idCmd i) s =
      .next { s with response := some { status := .ok, cmdOut := BitVec.ofNat 5 (i.toNat % 32) } } ∧
    exec (.idRaw i) s = .next { s with response := some { status := .ok, idOut := i } }

/-- R106, laws (a) to (d), each over the responses of the operations, issued in any states. -/
def Obligations.CodecLaws : Prop :=
  ∀ s s' : State,
    (∀ n c : IdBus, n.toNat < 64 → c.toNat < 32 →
      ∃ r, answer (.idPack n c) s = some r ∧ r.status = .ok ∧
        (answer (.idNode r.idOut) s').map (fun d => d.nodeOut.toNat) = some n.toNat ∧
        (answer (.idCmd r.idOut) s').map (fun d => d.cmdOut.toNat) = some c.toNat) ∧
    (∀ n c : IdBus, 64 ≤ n.toNat ∨ 32 ≤ c.toNat →
      (answer (.idPack n c) s).map (fun d => d.status) = some .outOfRange) ∧
    (∀ w : RawBus, w.toNat < 2048 →
      ∃ r, answer (.idFromRaw w) s = some r ∧
        (answer (.idRaw r.idOut) s').map (fun d => d.idOut.toNat) = some w.toNat ∧
        (answer (.idNode r.idOut) s').map (fun d => d.nodeOut.toNat) = some (w.toNat >>> 5) ∧
        (answer (.idCmd r.idOut) s').map (fun d => d.cmdOut.toNat) = some (w.toNat &&& 0x1F)) ∧
    (∀ i : Ident, ∃ rn rc, answer (.idNode i) s = some rn ∧ answer (.idCmd i) s = some rc ∧
      (answer (.idPack (rn.nodeOut.setWidth 8) (rc.cmdOut.setWidth 8)) s').map (fun d => d.idOut) = some i)

/-! ## The payload and the marshaller -/

/-- `PayWrite` then `PayRead` of the same field gives the value back, the write changes no other byte
(R43), and a read is the sum of its bytes shifted to their place, that is the little-endian bit field at its offset
(R40, R42). -/
def Obligations.PayloadReadAfterWrite : Prop :=
  ∀ (p : PayBus) (off n v : Nat), off + n ≤ 8 →
    (v < 2 ^ (8 * n) → payRead (payWrite p off n v) off n = v) ∧
    (∀ j < 8, j < off ∨ off + n ≤ j → byteAt (payWrite p off n v) j = byteAt p j) ∧
    (∀ k < n, (byteAt (payWrite p off n v) (off + k)).toNat = v / 2 ^ (8 * k) % 256) ∧
    payRead p off n = ((List.range n).map fun k => (byteAt p (off + k)).toNat <<< (8 * k)).sum ∧
    payRead p off n = p.toNat / 2 ^ (8 * off) % 2 ^ (8 * n)

/-- The shapes' fields are contiguous from offset 0 in their table's order, with no overlap and no padding,
and the shape's length is the sum of its widths, at most 8 (R61, R66). -/
def Obligations.ShapesArePackedContiguously : Prop :=
  ∀ S : FixedShape,
    (shapeFields S).map (fun f => f.off) =
        (List.range (shapeFields S).length).map
          (fun k => (((shapeFields S).map (fun f => f.width)).take k).sum) ∧
      ((shapeFields S).map (fun f => f.width)).sum = shapeLen S ∧ shapeLen S ≤ 8

/-- The four fixed encoders (R117, R119, R121, R123): the payload as a number, the last field in the high
bits, upper operand bits ignored. -/
def Obligations.EncodersLayOutFields : Prop :=
  ∀ (a0 a1 a2 a3 : FieldBus) (s : State),
    decode { ctrl := 0x0006 } = .ok .encEmpty ∧
    decode { ctrl := 0x0008, a0 := a0, a1 := a1 } = .ok (.encBusvi a0 a1) ∧
    decode { ctrl := 0x000A, a0 := a0, a1 := a1, a2 := a2 } = .ok (.encInpos a0 a1 a2) ∧
    decode { ctrl := 0x000C, a0 := a0, a1 := a1, a2 := a2, a3 := a3 } = .ok (.encHbeat a0 a1 a2 a3) ∧
    exec .encEmpty s = .next { s with response := some { status := .ok, lenOut := 0, payOut := 0 } } ∧
    exec (.encBusvi a0 a1) s =
      .next { s with response := some { status := .ok, lenOut := 8, payOut := a1 ++ a0 } } ∧
    exec (.encInpos a0 a1 a2) s =
      .next { s with
        response := some {
          status := .ok, lenOut := 8,
          payOut := (a2.extractLsb' 0 16 ++ a1.extractLsb' 0 16 : BitVec 32) ++ a0 } } ∧
    exec (.encHbeat a0 a1 a2 a3) s =
      .next { s with
        response := some {
          status := .ok, lenOut := 7,
          payOut := ((0#8 ++ a3.extractLsb' 0 8 : BitVec 16) ++
          (a2.extractLsb' 0 8 ++ a1.extractLsb' 0 8 : BitVec 16) : BitVec 32) ++ a0 } }

/-- The four fixed decoders (R118, R120, R122, R124) on every LEN: illegal over 8, malformed when too short,
else the bit fields zero-extended onto their buses. -/
def Obligations.DecodersExtractFields : Prop :=
  ∀ (len : LenBus) (p : PayBus) (s : State),
    (len.toNat ≤ 8 →
      decode { ctrl := 0x0007, len := len, payload := p } = .ok (.decEmpty len p) ∧
      decode { ctrl := 0x0009, len := len, payload := p } = .ok (.decBusvi len p) ∧
      decode { ctrl := 0x000B, len := len, payload := p } = .ok (.decInpos len p) ∧
      decode { ctrl := 0x000D, len := len, payload := p } = .ok (.decHbeat len p)) ∧
    (8 < len.toNat →
      exec (.decEmpty len p) s = .next { s with response := some { status := .illegalRequest } } ∧
      exec (.decBusvi len p) s = .next { s with response := some { status := .illegalRequest } } ∧
      exec (.decInpos len p) s = .next { s with response := some { status := .illegalRequest } } ∧
      exec (.decHbeat len p) s = .next { s with response := some { status := .illegalRequest } }) ∧
    (len.toNat < 8 →
      exec (.decBusvi len p) s = .next { s with response := some { status := .malformedPayload } } ∧
      exec (.decInpos len p) s = .next { s with response := some { status := .malformedPayload } }) ∧
    (len.toNat < 7 →
      exec (.decHbeat len p) s = .next { s with response := some { status := .malformedPayload } }) ∧
    (len.toNat ≤ 8 →
      exec (.decEmpty len p) s = .next { s with response := some { status := .ok, shapeOut := 1 } }) ∧
    (len.toNat = 8 →
      exec (.decBusvi len p) s =
        .next { s with
          response := some { status := .ok, shapeOut := 2, f0 := p.extractLsb' 0 32, f1 := p.extractLsb' 32 32 } } ∧
      exec (.decInpos len p) s =
        .next { s with
          response := some {
            status := .ok, shapeOut := 3, f0 := p.extractLsb' 0 32,
            f1 := (p.extractLsb' 32 16).setWidth 32, f2 := (p.extractLsb' 48 16).setWidth 32 } }) ∧
    (7 ≤ len.toNat → len.toNat ≤ 8 →
      exec (.decHbeat len p) s =
        .next { s with
          response := some {
            status := .ok, shapeOut := 4, f0 := p.extractLsb' 0 32,
            f1 := (p.extractLsb' 32 8).setWidth 32, f2 := (p.extractLsb' 40 8).setWidth 32,
            f3 := (p.extractLsb' 48 8).setWidth 32 } })

/-- ENC_ENDPT and DEC_ENDPT (R125, R126): the first LEN bytes, never malformed; illegal when LEN > 8. -/
def Obligations.EndpointPayloadIsRaw : Prop :=
  ∀ (len : LenBus) (p : PayBus) (s : State),
    (len.toNat ≤ 8 →
      decode { ctrl := 0x000E, len := len, payload := p } = .ok (.encEndpt len p) ∧
      decode { ctrl := 0x000F, len := len, payload := p } = .ok (.decEndpt len p) ∧
      exec (.encEndpt len p) s =
        .next { s with
          response := some { status := .ok, lenOut := len, payOut := BitVec.ofNat 64 (p.toNat % 2 ^ (8 * len.toNat)) } } ∧
      exec (.decEndpt len p) s =
        .next { s with
          response := some {
            status := .ok, shapeOut := 5, lenOut := len,
            payOut := BitVec.ofNat 64 (p.toNat % 2 ^ (8 * len.toNat)) } }) ∧
    (8 < len.toNat →
      exec (.encEndpt len p) s = .next { s with response := some { status := .illegalRequest } } ∧
      exec (.decEndpt len p) s = .next { s with response := some { status := .illegalRequest } })

/-- R113, the round trip: decoding what an encoder answered gives the operands back, cut to their field
widths; for ENDPT the first LEN bytes. -/
def Obligations.EncodeThenDecodeGivesOperands : Prop :=
  ∀ s s' : State,
    (∃ r, answer .encEmpty s = some r ∧
      answer (.decEmpty r.lenOut r.payOut) s' = some { status := .ok, shapeOut := 1 }) ∧
    (∀ a0 a1 : FieldBus, ∃ r, answer (.encBusvi a0 a1) s = some r ∧
      answer (.decBusvi r.lenOut r.payOut) s' = some { status := .ok, shapeOut := 2, f0 := a0, f1 := a1 }) ∧
    (∀ a0 a1 a2 : FieldBus, ∃ r, answer (.encInpos a0 a1 a2) s = some r ∧
      answer (.decInpos r.lenOut r.payOut) s' =
        some { status := .ok, shapeOut := 3, f0 := a0, f1 := a1 &&& 0xFFFF, f2 := a2 &&& 0xFFFF }) ∧
    (∀ a0 a1 a2 a3 : FieldBus, ∃ r, answer (.encHbeat a0 a1 a2 a3) s = some r ∧
      answer (.decHbeat r.lenOut r.payOut) s' =
        some { status := .ok, shapeOut := 4, f0 := a0, f1 := a1 &&& 0xFF, f2 := a2 &&& 0xFF,
               f3 := a3 &&& 0xFF }) ∧
    (∀ (len : LenBus) (p : PayBus), len.toNat ≤ 8 →
      ∃ r d, answer (.encEndpt len p) s = some r ∧ answer (.decEndpt r.lenOut r.payOut) s' = some d ∧
        d.status = .ok ∧ d.lenOut = len ∧ ∀ j < len.toNat, byteAt d.payOut j = byteAt p j)

/-- R114, the reverse round trip: encoding what a decoder answered gives the payload's first len(S) bytes
back, followed by zero bytes. -/
def Obligations.DecodeThenEncodeGivesBytes : Prop :=
  ∀ (s s' : State) (len : LenBus) (p : PayBus), len.toNat ≤ 8 →
    (answer .encEmpty s' = some { status := .ok, lenOut := 0, payOut := 0 }) ∧
    (8 ≤ len.toNat → ∃ r, answer (.decBusvi len p) s = some r ∧
      answer (.encBusvi r.f0 r.f1) s' = some { status := .ok, lenOut := 8, payOut := p }) ∧
    (8 ≤ len.toNat → ∃ r, answer (.decInpos len p) s = some r ∧
      answer (.encInpos r.f0 r.f1 r.f2) s' = some { status := .ok, lenOut := 8, payOut := p }) ∧
    (7 ≤ len.toNat → ∃ r, answer (.decHbeat len p) s = some r ∧
      answer (.encHbeat r.f0 r.f1 r.f2 r.f3) s' =
        some { status := .ok, lenOut := 7, payOut := BitVec.ofNat 64 (p.toNat % 2 ^ 56) })

/-- R13: no operation reads a payload byte at index >= LEN: payloads that agree on their first LEN bytes are
answered alike and leave the same state. -/
def Obligations.BytesBeyondLenAreNeverRead : Prop :=
  ∀ (len : LenBus) (p q : PayBus) (s : State), (∀ j < len.toNat, byteAt p j = byteAt q j) →
    exec (.decEmpty len p) s = exec (.decEmpty len q) s ∧
    exec (.decBusvi len p) s = exec (.decBusvi len q) s ∧
    exec (.decInpos len p) s = exec (.decInpos len q) s ∧
    exec (.decHbeat len p) s = exec (.decHbeat len q) s ∧
    exec (.encEndpt len p) s = exec (.encEndpt len q) s ∧
    exec (.decEndpt len p) s = exec (.decEndpt len q) s ∧
    (∀ (e r : Bool) (n c : IdBus), exec (.send e r n c len p) s = exec (.send e r n c len q) s) ∧
    (∀ (r x : Bool) (i : Ident), exec (.recv r x i len p) s = exec (.recv r x i len q) s)

/-- R48: the codec and marshaller operations answer the same in every state, change nothing but the response
(PEND, SUB, the configuration and every waiting request stay), and are idempotent. -/
def Obligations.CodecAndMarshallerAreStateless : Prop :=
  ∀ (i : Instr) (s s' t : State), stateless i = true → exec i s = .next t →
    t = { s with response := t.response } ∧ answer i s' = t.response ∧ exec i t = .next t

/-- R116: the physical value of a feed-forward field lies in -32.768 .. 32.767 and its thousandths are the
two's-complement value of the 16-bit pattern. -/
def Obligations.FeedForwardReading : Prop :=
  ∀ b : BitVec 16, -32768 ≤ sint16 b ∧ sint16 b ≤ 32767 ∧ sint16 b % 65536 = b.toNat ∧
    feedForward b * 1000 = (sint16 b : Rat)

/-! ## The send path -/

/-- SEND on every operand (R130): illegal, OUT_OF_RANGE, BUSY, or the frame emitted. In the last case the
pending bit of the pair is 1 when a reply is expected; otherwise PEND is not touched; SUB, the configuration
and the waiting requests never change. -/
def Obligations.SendEmitsFrameAndOpensRequest : Prop :=
  ∀ (e r : Bool) (n c : IdBus) (len : LenBus) (p : PayBus) (s : State),
    let i : Ident := BitVec.ofNat 11 (32 * n.toNat + c.toNat)
    (len.toNat ≤ 8 →
      decode { ctrl := BitVec.ofNat 16 (0x10 + 0x20 * e.toNat + 0x40 * r.toNat), nodeIn := n, cmdIn := c,
               len := len, payload := p } = .ok (.send e r n c len p)) ∧
    (8 < len.toNat →
      exec (.send e r n c len p) s = .next { s with response := some { status := .illegalRequest } }) ∧
    (len.toNat ≤ 8 → 64 ≤ n.toNat ∨ 32 ≤ c.toNat →
      exec (.send e r n c len p) s = .next { s with response := some { status := .outOfRange } }) ∧
    (len.toNat ≤ 8 → n.toNat < 64 → c.toNat < 32 → e = true → s.pendAt i = true →
      exec (.send e r n c len p) s = .next { s with response := some { status := .busy } }) ∧
    (len.toNat ≤ 8 → n.toNat < 64 → c.toNat < 32 → e = false ∨ s.pendAt i = false →
      ∃ t, exec (.send e r n c len p) s = .next t ∧
        t = { s with
          pend := t.pend
          response := some {
            status := .ok, idOut := i, txValid := true, txId := i, txRtr := r, txLen := len,
            txData := BitVec.ofNat 64 (p.toNat % 2 ^ (8 * len.toNat)) } } ∧
        (e = false → t.pend = s.pend) ∧
        ∀ j, t.pendAt j = if e = true ∧ j = i then true else s.pendAt j)

/-- R133 and R183: after a SEND with E = 1 succeeded, a second one for the same pair, whatever its frame,
gives BUSY, sends nothing and leaves the pending request untouched. -/
def Obligations.SecondSendOfPendingPairIsBusy : Prop :=
  ∀ (r r' : Bool) (n c : IdBus) (len len' : LenBus) (p p' : PayBus) (s t : State) (d : Response),
    exec (.send true r n c len p) s = .next t → t.response = some d → d.status = .ok → len'.toNat ≤ 8 →
      exec (.send true r' n c len' p') t = .next { t with response := some { status := .busy } }

/-- R131: no operation but SEND hands a frame to the transport, and the frame is a standard one with the
identifier of the pair, the length and the bit R of the request. -/
def Obligations.OnlySendEmitsFrames : Prop :=
  ∀ (i : Instr) (s : State) (d : Response) (f : Frame), answer i s = some d → d.txFrame = some f →
    ∃ e r n c len p, i = .send e r n c len p ∧ d.status = .ok ∧
      f = { format := .standard, rtr := r, id := BitVec.ofNat 11 (32 * n.toNat + c.toNat), len := len,
            data := BitVec.ofNat 64 (p.toNat % 2 ^ (8 * len.toNat)) }

/-- R78: CMDSEND, for the four fixed shapes (the model's reading, log entry 21), is the encoder followed by
SEND with the LEN_OUT and PAY_OUT it answered; for a pair in range that is not busy it emits a frame whose
payload decodes, by the same shape, to OK. GETREQ is SEND.E with an empty payload, MKID is ID_PACK. -/
def Obligations.CommandSendEmitsEncodedPayload : Prop :=
  ∀ (S : FixedShape) (ops : Fields) (e : Bool) (n c : IdBus) (s s' s'' : State),
    n.toNat < 64 → c.toNat < 32 → e = false ∨ s'.pendAt (BitVec.ofNat 11 (32 * n.toNat + c.toNat)) = false →
    getReq n c = .send true false n c 0 0 ∧ mkId n c = .idPack n c ∧
    ∃ d r f, answer (cmdSendEncode S ops) s = some d ∧ answer (cmdSendSend e n c d) s' = some r ∧
      r.txFrame = some f ∧ f.rtr = false ∧ f.len.toNat = shapeLen S ∧ f.data = d.payOut ∧
      (answer (decInstr S f.len f.data) s'').map (fun x => x.status) = some .ok

/-! ## The receive path -/

/-- R137: an extended or remote frame is IGNORED_FORMAT, alone; LEN > 8 is illegal before that (R74). -/
def Obligations.RecvIgnoresOtherFormats : Prop :=
  ∀ (r x : Bool) (i : Ident) (len : LenBus) (p : PayBus) (s : State),
    (len.toNat ≤ 8 →
      decode { ctrl := BitVec.ofNat 16 (0x11 + 0x40 * r.toNat + 0x80 * x.toNat), idIn := i, len := len,
               payload := p } = .ok (.recv r x i len p)) ∧
    (8 < len.toNat →
      exec (.recv r x i len p) s = .next { s with response := some { status := .illegalRequest } }) ∧
    (len.toNat ≤ 8 → x = true ∨ r = true →
      exec (.recv r x i len p) s = .next { s with response := some { status := .ignoredFormat } })

/-- R25 and R138: a frame of a node with no subscription and no pending request on any of its 32 commands is
IGNORED_NODE, whatever its command, and changes no state. -/
def Obligations.RecvIgnoresInactiveNodes : Prop :=
  ∀ (i : Ident) (len : LenBus) (p : PayBus) (s : State), len.toNat ≤ 8 →
    s.subAt (BitVec.ofNat 6 (i.toNat / 32)) = false →
    (∀ j : Ident, j.toNat / 32 = i.toNat / 32 → s.pendAt j = false) →
    exec (.recv false false i len p) s =
      .next { s with
        response := some {
          status := .ignoredNode, idOut := i, nodeOut := BitVec.ofNat 6 (i.toNat / 32),
          cmdOut := BitVec.ofNat 5 (i.toNat % 32) } }

/-- R139: a frame of an active node whose command is neither in the table nor an endpoint id is
UNKNOWN_COMMAND and changes no state, even when its own pair is pending. -/
def Obligations.RecvReportsUnknownCommand : Prop :=
  ∀ (i : Ident) (len : LenBus) (p : PayBus) (s : State), len.toNat ≤ 8 →
    s.subAt (nodeOf i) = true ∨ (∃ j, nodeOf j = nodeOf i ∧ s.pendAt j = true) →
    lookup s.cfg (cmdOf i) = none →
    (cmdOf i).toNat < s.cfg.epLo.toNat ∨ s.cfg.epHi.toNat < (cmdOf i).toNat →
    exec (.recv false false i len p) s =
      .next { s with
        response := some { status := .unknownCommand, idOut := i, nodeOut := nodeOf i, cmdOut := cmdOf i } }

/-- R140: a too short frame of an active node with a fixed command is MALFORMED_PAYLOAD and changes no
state, whether or not its pair is pending; a frame with an endpoint id never is. -/
def Obligations.RecvReportsMalformedPayload : Prop :=
  ∀ (i : Ident) (len : LenBus) (p : PayBus) (s : State), len.toNat ≤ 8 →
    s.subAt (nodeOf i) = true ∨ (∃ j, nodeOf j = nodeOf i ∧ s.pendAt j = true) →
    (∀ entry, lookup s.cfg (cmdOf i) = some entry → len.toNat < shapeLen entry.rxShape →
      exec (.recv false false i len p) s =
        .next { s with
          response := some {
            status := .malformedPayload, idOut := i, nodeOut := nodeOf i, cmdOut := cmdOf i } }) ∧
    (lookup s.cfg (cmdOf i) = none → s.cfg.epLo.toNat ≤ (cmdOf i).toNat →
      (cmdOf i).toNat ≤ s.cfg.epHi.toNat →
      ∃ d, answer (.recv false false i len p) s = some d ∧
        d.status = if s.pendAt i then .completed else .discarded)

/-- R141: a decodable frame whose pair is pending is COMPLETED with the fields DEC_S answers, and exactly the
pair's bit is cleared; after that no frame of the pair is COMPLETED. The node needs no subscription: the pending request
makes it active. -/
def Obligations.RecvCompletesPendingRequest : Prop :=
  ∀ (i : Ident) (len : LenBus) (p : PayBus) (s s' : State), len.toNat ≤ 8 → s.pendAt i = true →
    (∀ entry, lookup s.cfg (cmdOf i) = some entry → shapeLen entry.rxShape ≤ len.toNat →
      ∃ d t, answer (decInstr entry.rxShape len p) s' = some d ∧ d.status = .ok ∧
        exec (.recv false false i len p) s = .next t ∧
        t = { s with
          pend := t.pend
          response := some { d with status := .completed, idOut := i, nodeOut := nodeOf i, cmdOut := cmdOf i } } ∧
        (∀ j, t.pendAt j = if j = i then false else s.pendAt j) ∧
        ∀ r x len' p' d', answer (.recv r x i len' p') t = some d' → d'.status ≠ .completed) ∧
    (lookup s.cfg (cmdOf i) = none → s.cfg.epLo.toNat ≤ (cmdOf i).toNat →
      (cmdOf i).toNat ≤ s.cfg.epHi.toNat →
      ∃ d t, answer (.decEndpt len p) s' = some d ∧ d.status = .ok ∧
        exec (.recv false false i len p) s = .next t ∧
        t = { s with
          pend := t.pend
          response := some { d with status := .completed, idOut := i, nodeOut := nodeOf i, cmdOut := cmdOf i } } ∧
        (∀ j, t.pendAt j = if j = i then false else s.pendAt j) ∧
        ∀ r x len' p' d', answer (.recv r x i len' p') t = some d' → d'.status ≠ .completed)

/-- R142 and R143: a decodable frame of an active node whose pair is not pending is UNSOLICITED when its
fixed command is telemetry, else DISCARDED (every endpoint id), with the fields DEC_S answers, and changes no
state. -/
def Obligations.RecvReportsUnrequestedFrames : Prop :=
  ∀ (i : Ident) (len : LenBus) (p : PayBus) (s s' : State), len.toNat ≤ 8 → s.pendAt i = false →
    s.subAt (nodeOf i) = true ∨ (∃ j, nodeOf j = nodeOf i ∧ s.pendAt j = true) →
    (∀ entry, lookup s.cfg (cmdOf i) = some entry → shapeLen entry.rxShape ≤ len.toNat →
      ∃ d, answer (decInstr entry.rxShape len p) s' = some d ∧ d.status = .ok ∧
        exec (.recv false false i len p) s =
          .next { s with
            response := some { d with
              status := if entry.telemetry then .unsolicited else .discarded,
              idOut := i, nodeOut := nodeOf i, cmdOut := cmdOf i } }) ∧
    (lookup s.cfg (cmdOf i) = none → s.cfg.epLo.toNat ≤ (cmdOf i).toNat →
      (cmdOf i).toNat ≤ s.cfg.epHi.toNat →
      ∃ d, answer (.decEndpt len p) s' = some d ∧ d.status = .ok ∧
        exec (.recv false false i len p) s =
          .next { s with
            response := some { d with status := .discarded, idOut := i, nodeOut := nodeOf i, cmdOut := cmdOf i } })

/-- R127: a decoded frame was decoded with the inbound shape of its command, the entry's rx_shape for a fixed
id and ENDPT for an endpoint id, whose code is on SHAPE_OUT. An outbound payload is encoded by the host with
the entry's tx_shape, at that shape's length; with ENC_ENDPT for an endpoint id; and with nothing when the
tx_shape is NONE. -/
def Obligations.CommandsUseTheirShapes : Prop :=
  ∀ (i : Ident) (len : LenBus) (p : PayBus) (s : State),
    (∀ (r x : Bool) (d : Response), answer (.recv r x i len p) s = some d →
      d.status ∈ [Status.completed, .unsolicited, .discarded] →
      ∃ S, inboundShape s.cfg (cmdOf i) = some S ∧ d.shapeOut = S.code) ∧
    (∀ entry, lookup s.cfg (cmdOf i) = some entry →
      inboundShape s.cfg (cmdOf i) = some (.fixed entry.rxShape) ∧
      (∀ S ops, entry.txShape = some S → ∃ j q, hostEncode s.cfg (cmdOf i) ops len p = some j ∧
        answer j s = some q ∧ q.status = .ok ∧ q.lenOut.toNat = shapeLen S ∧
        q.payOut = encodeShape S ops) ∧
      (∀ ops, entry.txShape = none → hostEncode s.cfg (cmdOf i) ops len p = none)) ∧
    (lookup s.cfg (cmdOf i) = none → s.cfg.epLo.toNat ≤ (cmdOf i).toNat →
      (cmdOf i).toNat ≤ s.cfg.epHi.toNat →
      inboundShape s.cfg (cmdOf i) = some .endpt ∧
      ∀ ops, hostEncode s.cfg (cmdOf i) ops len p = some (.encEndpt len p))

/-- R141: once a frame completed a request, the same frame again, or any other of the pair, is not COMPLETED
and changes no state. -/
def Obligations.DuplicateReplyNeverCompletesAgain : Prop :=
  ∀ (r x r' x' : Bool) (i : Ident) (len len' : LenBus) (p p' : PayBus) (s t u : State) (d d' : Response),
    exec (.recv r x i len p) s = .next t → t.response = some d → d.status = .completed →
    exec (.recv r' x' i len' p') t = .next u → u.response = some d' →
      d'.status ≠ .completed ∧ u = { t with response := some d' }

/-- R173: what an operation of a pair (RECV of its frame, SEND, CANCEL, TIMEOUT, in every form and with every
operand) does depends on the state only through that pair's pending bit (and, for RECV, the configuration and
whether the frame's node is active); the other pairs' bits neither matter nor change. -/
def Obligations.PairsAreIndependent : Prop :=
  ∀ (s s' : State) (i : Ident), s.pendAt i = s'.pendAt i →
    (∀ (r x : Bool) (len : LenBus) (p : PayBus), s.cfg = s'.cfg → s.active (nodeOf i) = s'.active (nodeOf i) →
      ∃ t t', exec (.recv r x i len p) s = .next t ∧ exec (.recv r x i len p) s' = .next t' ∧
        t.response = t'.response ∧ t.pendAt i = t'.pendAt i ∧
        ∀ j, j ≠ i → t.pendAt j = s.pendAt j ∧ t'.pendAt j = s'.pendAt j) ∧
    (∀ n c : IdBus, i.toNat = 32 * n.toNat + c.toNat → c.toNat < 32 →
      ∀ (e r : Bool) (len : LenBus) (p : PayBus),
      ∀ op ∈ [Instr.cancel n c, .timeout n c, .send e r n c len p],
      ∃ t t', exec op s = .next t ∧ exec op s' = .next t' ∧
        t.response = t'.response ∧ t.pendAt i = t'.pendAt i ∧
        ∀ j, j ≠ i → t.pendAt j = s.pendAt j ∧ t'.pendAt j = s'.pendAt j)

/-- R182: with nothing pending and nothing subscribed, as after reset, every data frame in standard format is
IGNORED_NODE and the block's state stays. -/
def Obligations.NoNodeIsActiveAfterReset : Prop :=
  ∀ (i : Ident) (len : LenBus) (p : PayBus) (s : State), len.toNat ≤ 8 →
    (∀ n, s.resetBlock.active n = false) ∧ (∀ n, State.reset.active n = false) ∧
    ∃ t d, exec (.recv false false i len p) s.resetBlock = .next t ∧ t.response = some d ∧
      d.status = .ignoredNode ∧ (∀ j, t.pendAt j = false) ∧ ∀ n, t.subAt n = false

/-! ## The lifecycle and the subscriptions -/

/-- CANCEL and TIMEOUT on every operand (R145, R146): OUT_OF_RANGE alone, NOT_PENDING with the identifier and
no state change, or the pair's bit cleared and the terminal status with the identifier. -/
def Obligations.CancelAndTimeoutEndRequest : Prop :=
  ∀ (n c : IdBus) (s : State),
    let i : Ident := BitVec.ofNat 11 (32 * n.toNat + c.toNat)
    decode { ctrl := 0x0012, nodeIn := n, cmdIn := c } = .ok (.cancel n c) ∧
    decode { ctrl := 0x0013, nodeIn := n, cmdIn := c } = .ok (.timeout n c) ∧
    (64 ≤ n.toNat ∨ 32 ≤ c.toNat →
      exec (.cancel n c) s = .next { s with response := some { status := .outOfRange } } ∧
      exec (.timeout n c) s = .next { s with response := some { status := .outOfRange } }) ∧
    (n.toNat < 64 → c.toNat < 32 → s.pendAt i = false →
      exec (.cancel n c) s = .next { s with response := some { status := .notPending, idOut := i } } ∧
      exec (.timeout n c) s = .next { s with response := some { status := .notPending, idOut := i } }) ∧
    (n.toNat < 64 → c.toNat < 32 → s.pendAt i = true →
      ∃ t u, exec (.cancel n c) s = .next t ∧ exec (.timeout n c) s = .next u ∧
        t = { s with pend := t.pend, response := some { status := .cancelled, idOut := i } } ∧
        u = { s with pend := t.pend, response := some { status := .timeout, idOut := i } } ∧
        ∀ j, t.pendAt j = if j = i then false else s.pendAt j)

/-- R147: after a CANCEL or TIMEOUT ended the pair's request, a SEND with E = 1 for the pair is not BUSY. -/
def Obligations.EndedRequestReleasesItsSlot : Prop :=
  ∀ (n c : IdBus) (r : Bool) (len : LenBus) (p : PayBus) (s t : State) (d : Response),
    exec (.cancel n c) s = .next t ∨ exec (.timeout n c) s = .next t →
    t.response = some d → d.status ≠ .outOfRange → len.toNat ≤ 8 →
    ∃ u, exec (.send true r n c len p) t = .next u ∧ u.pendAt d.idOut = true ∧
      u.response.map (fun x => (x.status, x.txValid)) = some (.ok, true)

/-- R148 and R185, the late-reply hazard: after a TIMEOUT or CANCEL a decodable late reply (of a fixed command,
long enough, or of an endpoint command) is UNSOLICITED, DISCARDED or IGNORED_NODE, but once a new SEND with
E = 1 opened the pair again the same late reply completes the new request. -/
def Obligations.LateReplyCompletesOnlyNewerRequest : Prop :=
  ∀ (n c : IdBus) (r : Bool) (len' len : LenBus) (p' p : PayBus) (s t u : State) (d e : Response),
    let i : Ident := BitVec.ofNat 11 (32 * n.toNat + c.toNat)
    exec (.timeout n c) s = .next t ∨ exec (.cancel n c) s = .next t →
    t.response = some d → d.status = .timeout ∨ d.status = .cancelled →
    len.toNat ≤ 8 →
    (∃ entry, lookup s.cfg (cmdOf i) = some entry ∧ shapeLen entry.rxShape ≤ len.toNat) ∨
      (lookup s.cfg (cmdOf i) = none ∧ s.cfg.epLo.toNat ≤ (cmdOf i).toNat ∧
        (cmdOf i).toNat ≤ s.cfg.epHi.toNat) →
    exec (.send true r n c len' p') t = .next u → u.response = some e → e.status = .ok →
    (∃ x, answer (.recv false false i len p) t = some x ∧
      (x.status = .unsolicited ∨ x.status = .discarded ∨ x.status = .ignoredNode)) ∧
    ∃ v y, exec (.recv false false i len p) u = .next v ∧ v.response = some y ∧ y.status = .completed ∧
      y.idOut = i ∧ v.pendAt i = false

/-- R184: a pending request for an unknown command is ended by no frame at all, and one for a fixed command by
no too short frame: only CANCEL and TIMEOUT end it. -/
def Obligations.UndecodableFramesNeverEndRequest : Prop :=
  ∀ (r x : Bool) (i j : Ident) (len : LenBus) (p : PayBus) (s t : State),
    exec (.recv r x i len p) s = .next t →
    (classify s.cfg (cmdOf j) = .unknown → t.pendAt j = s.pendAt j) ∧
    (∀ entry, lookup s.cfg (cmdOf j) = some entry → len.toNat < shapeLen entry.rxShape →
      t.pendAt j = s.pendAt j)

/-- SUBSCRIBE and UNSUBSCRIBE on every operand (R150, R151): OUT_OF_RANGE alone, or the node's bit set or
cleared and no other, PEND untouched. -/
def Obligations.SubscriptionsSetAndClearOneBit : Prop :=
  ∀ (n : IdBus) (s : State),
    decode { ctrl := 0x0014, nodeIn := n } = .ok (.subscribe n) ∧
    decode { ctrl := 0x0015, nodeIn := n } = .ok (.unsubscribe n) ∧
    (64 ≤ n.toNat →
      exec (.subscribe n) s = .next { s with response := some { status := .outOfRange } } ∧
      exec (.unsubscribe n) s = .next { s with response := some { status := .outOfRange } }) ∧
    (n.toNat < 64 →
      ∃ t u, exec (.subscribe n) s = .next t ∧ exec (.unsubscribe n) s = .next u ∧
        t = { s with sub := t.sub, response := some { status := .ok, nodeOut := BitVec.ofNat 6 n.toNat } } ∧
        u = { s with sub := u.sub, response := some { status := .ok, nodeOut := BitVec.ofNat 6 n.toNat } } ∧
        ∀ m : NodeId, t.subAt m = (if m.toNat = n.toNat then true else s.subAt m) ∧
          u.subAt m = if m.toNat = n.toNat then false else s.subAt m)

/-- R25 and R151: a node is active exactly when it is subscribed or has a pending request; so after SUBSCRIBE
it is active, and after UNSUBSCRIBE it is active exactly when one of its requests is pending. -/
def Obligations.NodeActivity : Prop :=
  ∀ (n : IdBus) (s t u : State), n.toNat < 64 → exec (.subscribe n) s = .next t →
    exec (.unsubscribe n) s = .next u →
    t.active (BitVec.ofNat 6 n.toNat) = true ∧
    (u.active (BitVec.ofNat 6 n.toNat) = true ↔ ∃ j : Ident, j.toNat / 32 = n.toNat ∧ s.pendAt j = true)

/-! ## Whole-machine rules -/

/-- R160 and R161: the source's error kinds and STATUS have the listed codes, 14 and 15 are never produced, and an operation reports only the
statuses its row names. -/
def Obligations.StatusCodesAndReporters : Prop :=
  ([Status.ok, .outOfRange, .malformedPayload, .unknownCommand, .timeout, .cancelled, .busy, .illegalRequest,
      .completed, .unsolicited, .discarded, .ignoredNode, .ignoredFormat, .notPending].map
      fun st => st.code.toNat) = List.range 14 ∧
  ([SourceError.outOfRange, .malformedPayload, .unknownCommand, .timeout, .cancelled].map
      fun k => k.status.code.toNat) = [1, 2, 3, 4, 5] ∧
  (∀ st : Status, (st.kind = .success ↔ st.code = 0) ∧ (st.kind = .error ↔ st.code ∈ [1#4, 2, 6, 7]) ∧
      (st.kind = .report ↔ st.code = 3) ∧ (st.kind = .terminal ↔ st.code ∈ [4#4, 5, 8])) ∧
  (∀ r : Response, r.statusBus ≠ 14 ∧ r.statusBus ≠ 15) ∧
  ∀ (i : Instr) (s : State) (r : Response), answer i s = some r → reportedBy r.status i = true

/-- R75 and R12: an operation leaves zero every response field its row does not list. -/
def Obligations.OnlyListedResponseFieldsAreSet : Prop :=
  ∀ (i : Instr) (s : State) (r : Response), answer i s = some r → onlyMaySet i r = r

/-- The frame of every operation: the configuration, the waiting requests, the schedule, the count and the
answered agent stay. PEND changes only at the identifier of SEND's, CANCEL's and TIMEOUT's pair or of RECV's
frame, and SUB only at SUBSCRIBE's and UNSUBSCRIBE's node; every other bit reads as before. -/
def Obligations.OperationFrames : Prop :=
  ∀ (i : Instr) (s t : State), exec i s = .next t →
    t = { s with pend := t.pend, sub := t.sub, response := t.response } ∧
    (∀ j, t.pendAt j ≠ s.pendAt j →
      (∃ e r n c len p, i = .send e r n c len p ∧ j.toNat = 32 * n.toNat + c.toNat) ∨
      (∃ r x len p, i = .recv r x j len p) ∨
      (∃ n c, i = .cancel n c ∧ j.toNat = 32 * n.toNat + c.toNat) ∨
      (∃ n c, i = .timeout n c ∧ j.toNat = 32 * n.toNat + c.toNat)) ∧
    (∀ m, t.subAt m ≠ s.subAt m →
      (∃ n, i = .subscribe n ∧ m.toNat = n.toNat) ∨ (∃ n, i = .unsubscribe n ∧ m.toNat = n.toNat))

/-- R23: only a SEND with E = 1 sets a pending bit, only RECV with COMPLETED, CANCEL with CANCELLED and
TIMEOUT with TIMEOUT clear one, and the response that reports a terminal state names the bit it cleared. -/
def Obligations.PendingBitLifecycle : Prop :=
  ∀ (i : Instr) (s t : State) (d : Response), exec i s = .next t → t.response = some d →
    ∀ j,
      (s.pendAt j = false → t.pendAt j = true →
        (∃ r n c len p, i = .send true r n c len p) ∧ d.status = .ok ∧ d.idOut = j) ∧
      ((s.pendAt j = true ∧ t.pendAt j = false) ↔
        d.idOut = j ∧ (d.status = .completed ∨ d.status = .cancelled ∨ d.status = .timeout)) ∧
      (d.status = .completed → ∃ r x k len p, i = .recv r x k len p) ∧
      (d.status = .cancelled → ∃ n c, i = .cancel n c) ∧
      (d.status = .timeout → ∃ n c, i = .timeout n c)

/-- R169, the accounting of pending requests along any run with no reset: the SENDs with E = 1 that succeeded
for an identifier, and its pending bit at the start, are as many as the COMPLETED, TIMEOUT and CANCELLED
responses for it and its pending bit at the end. So each successful SEND is answered by exactly one terminal
response, or is still pending. -/
def Obligations.EachRequestEndsExactlyOnce : Prop :=
  ∀ (k : Nat) (s : State) (j : Ident), (∀ turn ∈ s.schedule, turn ≠ .reset) →
    (s.pendAt j).toNat + countAlong (opensAt j) k s =
      countAlong (closesAt j) k s + ((after k s).pendAt j).toNat

/-- R165: every error outcome writes no state. -/
def Obligations.ErrorOutcomesWriteNoState : Prop :=
  ∀ (i : Instr) (s t : State) (d : Response), exec i s = .next t → t.response = some d →
    d.status ∈ [Status.outOfRange, .malformedPayload, .unknownCommand, .busy, .illegalRequest, .ignoredNode,
      .ignoredFormat, .notPending, .unsolicited, .discarded] →
    t = { s with response := some d }

/-- The invariant every step keeps: PEND and SUB in the canonical form of their lists, a configuration R9
admits, and a latest response of the form R28, R66, R131 and R162 give. -/
def Obligations.StepKeepsSoundState : Prop :=
  ∀ s t : State, s.Inv → step s = .next t → t.Inv

/-- The invariant holds after reset, of the machine's reset state (whose configuration is the model's choice
GK4, log entry 2). -/
def Obligations.ResetStateIsSound : Prop := State.reset.Inv

/-- R32: after reset, and after the reset of the block in any state, every PEND and SUB bit is 0 and no
response is outstanding; the reset of the block leaves the configuration as it was. -/
def Obligations.ResetClearsPendAndSub : Prop :=
  (∀ i, State.reset.pendAt i = false) ∧ (∀ n, State.reset.subAt n = false) ∧ State.reset.response = none ∧
  ∀ s : State, (∀ i, s.resetBlock.pendAt i = false) ∧ (∀ n, s.resetBlock.subAt n = false) ∧
    s.resetBlock.response = none ∧ s.resetBlock.cfg = s.cfg

/-- R180 and R32: a reset, taken between requests, clears PEND and SUB, leaves no response outstanding, does
not change the configuration, and (the model's choice, log entry 5) leaves the agents' waiting requests. -/
def Obligations.ResetTurnClearsTheBlock : Prop :=
  ∀ (s : State) (turns : List Turn), s.schedule = .reset :: turns →
    ∃ t, step s = .next t ∧ (∀ i, t.pendAt i = false) ∧ (∀ n, t.subAt n = false) ∧ t.response = none ∧
      t.cfg = s.cfg ∧ t.hostQ = s.hostQ ∧ t.transportQ = s.transportQ ∧ t.schedule = turns

/-- R27: no step, a reset among them, changes the configuration. -/
def Obligations.ConfigurationNeverChanges : Prop :=
  ∀ (k : Nat) (s : State), (after k s).cfg = s.cfg

/-- R171: the block never acts unprompted: with no request waiting and no reset scheduled, a step changes no
state of the block and delivers no new response. That it spends a turn is the model's own (log entry 6). -/
def Obligations.BlockNeverActsUnprompted : Prop :=
  ∀ s : State, s.hostQ = [] → s.transportQ = [] → (∀ turns, s.schedule ≠ .reset :: turns) →
    step s = .next { s with schedule := s.schedule.tail }

/-- R68: under a configuration R9 admits, every command id is in exactly one class, decided by the table and
the endpoint range, which do not overlap. -/
def Obligations.CommandClassesAreDisjoint : Prop :=
  ∀ (cfg : CmdConfig) (c : CmdId), cfg.valid = true →
    (∀ entry, classify cfg c = .fixed entry ↔ lookup cfg c = some entry) ∧
    (classify cfg c = .endpoint ↔ cfg.epLo.toNat ≤ c.toNat ∧ c.toNat ≤ cfg.epHi.toNat) ∧
    (classify cfg c = .unknown ↔
      lookup cfg c = none ∧ ¬(cfg.epLo.toNat ≤ c.toNat ∧ c.toNat ≤ cfg.epHi.toNat))

/-- R9 and GK4: the spec's default instance satisfies R9; the heartbeat of any admitted instance is telemetry
with shape HBEAT. -/
def Obligations.DefaultConfigurationIsValid : Prop :=
  gk4.valid = true ∧ ∀ cfg : CmdConfig, cfg.valid = true →
    ∃ entry, lookup cfg cfg.idHeartbeat = some entry ∧ entry.rxShape = .hbeat ∧ entry.telemetry = true ∧
      entry.txShape = none
end

