-- ==== Sys2Proof/Laws/BitArray.lean ====
section
/-! SUPPORT. The laws of a bit array: a read after a write, the canonical form kept by both writes, and
equality of arrays in canonical form that read alike. -/

namespace Sys2Proof.Machine

variable {w : Nat}

@[simp] theorem BitArray.read_nil (i : BitVec w) : BitArray.read [] i = false := rfl

theorem BitArray.read_eq_true (a : BitArray w) (i : BitVec w) : a.read i = true ↔ i ∈ a := by
  simp [BitArray.read]

theorem BitArray.mem_setBit (i j : BitVec w) (a : BitArray w) :
    j ∈ BitArray.setBit i a ↔ j = i ∨ j ∈ a := by
  induction a with
  | nil => simp [BitArray.setBit]
  | cons k ks ih =>
    simp only [BitArray.setBit]
    split
    · simp
    · split
      · rename_i h
        subst h
        simp
      · simp only [List.mem_cons, ih]
        tauto

theorem BitArray.mem_clearBit (i j : BitVec w) (a : BitArray w) :
    j ∈ BitArray.clearBit i a ↔ j ≠ i ∧ j ∈ a := by
  induction a with
  | nil => simp [BitArray.clearBit]
  | cons k ks ih =>
    simp only [BitArray.clearBit]
    split
    · rename_i h
      subst h
      simp only [ih, List.mem_cons]
      tauto
    · rename_i h
      simp only [List.mem_cons, ih]
      constructor
      · rintro (rfl | ⟨hne, hmem⟩)
        · exact ⟨fun hji => h hji.symm, Or.inl rfl⟩
        · exact ⟨hne, Or.inr hmem⟩
      · tauto

@[simp] theorem BitArray.read_setBit (i j : BitVec w) (a : BitArray w) :
    (BitArray.setBit i a).read j = (decide (j = i) || a.read j) := by
  rw [Bool.eq_iff_iff]
  simp [BitArray.read_eq_true, BitArray.mem_setBit]

@[simp] theorem BitArray.read_clearBit (i j : BitVec w) (a : BitArray w) :
    (BitArray.clearBit i a).read j = (!decide (j = i) && a.read j) := by
  rw [Bool.eq_iff_iff]
  simp [BitArray.read_eq_true, BitArray.mem_clearBit]

theorem BitArray.wf_nil : BitArray.wf ([] : BitArray w) := List.Pairwise.nil

theorem BitArray.wf_setBit (i : BitVec w) (a : BitArray w) (h : a.wf) : (BitArray.setBit i a).wf := by
  induction a with
  | nil => simp [BitArray.setBit]
  | cons k ks ih =>
    have hk : ∀ j ∈ ks, k.toNat < j.toNat := (List.pairwise_cons.mp h).1
    have hks : BitArray.wf ks := (List.pairwise_cons.mp h).2
    simp only [BitArray.setBit]
    split
    · rename_i hlt
      refine List.pairwise_cons.mpr ⟨?_, h⟩
      intro j hj
      rcases List.mem_cons.mp hj with rfl | hj
      · exact hlt
      · exact Nat.lt_trans hlt (hk j hj)
    · split
      · exact h
      · rename_i hge hne
        refine List.pairwise_cons.mpr ⟨?_, ih hks⟩
        intro j hj
        rcases (BitArray.mem_setBit i j ks).mp hj with rfl | hj
        · have : j.toNat ≠ k.toNat := fun he => hne (BitVec.eq_of_toNat_eq he)
          omega
        · exact hk j hj

theorem BitArray.wf_clearBit (i : BitVec w) (a : BitArray w) (h : a.wf) :
    (BitArray.clearBit i a).wf := by
  induction a with
  | nil => exact h
  | cons k ks ih =>
    have hk : ∀ j ∈ ks, k.toNat < j.toNat := (List.pairwise_cons.mp h).1
    have hks : BitArray.wf ks := (List.pairwise_cons.mp h).2
    simp only [BitArray.clearBit]
    split
    · exact ih hks
    · refine List.pairwise_cons.mpr ⟨?_, ih hks⟩
      intro j hj
      exact hk j ((BitArray.mem_clearBit i j ks).mp hj).2

/-- Two arrays in canonical form that read alike everywhere are the same list. -/
theorem BitArray.ext_of_wf (a b : BitArray w) (ha : a.wf) (hb : b.wf)
    (h : ∀ i, a.read i = b.read i) : a = b := by
  have hmem : ∀ i, i ∈ a ↔ i ∈ b := fun i => by
    rw [← BitArray.read_eq_true, ← BitArray.read_eq_true, h i]
  have hirr : ∀ c : BitArray w, c.wf → c.Nodup := fun c hc =>
    List.Pairwise.imp (fun {i j} (hlt : i.toNat < j.toNat) he => by subst he; omega) hc
  refine List.Perm.eq_of_pairwise (le := fun i j => i.toNat < j.toNat) ?_ ha hb
    ((List.perm_ext_iff_of_nodup (hirr a ha) (hirr b hb)).mpr hmem)
  intro i j _ _ hij hji
  omega

end Sys2Proof.Machine
end

