-- ==== Sys2Proof/Laws/Decode.lean ====
section
/-! SUPPORT. The fields of the control word as numbers, the fields of an encoded control word, and what a
request that decodes must be (R71 to R74). -/

namespace Sys2Proof

theorem Request.op_toNat (q : Request) : q.op.toNat = q.ctrl.toNat % 32 := by
  simp [Request.op]

theorem Request.reserved_toNat (q : Request) : q.reserved.toNat = q.ctrl.toNat / 256 := by
  have := q.ctrl.isLt
  simp [Request.reserved, Nat.shiftRight_eq_div_pow]
  omega

theorem Request.flagE_iff (q : Request) : q.flagE = true ↔ q.ctrl.toNat / 32 % 2 = 1 := by
  simp only [Request.flagE, BitVec.getLsbD, Nat.testBit_eq_decide_div_mod_eq, decide_eq_true_eq]

theorem Request.flagR_iff (q : Request) : q.flagR = true ↔ q.ctrl.toNat / 64 % 2 = 1 := by
  simp only [Request.flagR, BitVec.getLsbD, Nat.testBit_eq_decide_div_mod_eq, decide_eq_true_eq]

theorem Request.flagX_iff (q : Request) : q.flagX = true ↔ q.ctrl.toNat / 128 % 2 = 1 := by
  simp only [Request.flagX, BitVec.getLsbD, Nat.testBit_eq_decide_div_mod_eq, decide_eq_true_eq]

/-- The number a control word is: `OP + 32 E + 64 R + 128 X` (R71, R77). -/
theorem ctrlWord_toNat (op : BitVec 5) (e r x : Bool) :
    (ctrlWord (op.setWidth 16) e r x).toNat = op.toNat + 32 * e.toNat + 64 * r.toNat + 128 * x.toNat := by
  revert op e r x
  decide

/-- A request with an encoded control word has the fields it was encoded from. -/
theorem Request.fields_of_ctrlWord (q : Request) (op : BitVec 5) (e r x : Bool)
    (hq : q.ctrl = ctrlWord (op.setWidth 16) e r x) :
    q.op = op ∧ q.flagE = e ∧ q.flagR = r ∧ q.flagX = x ∧ q.reserved = 0 := by
  simp only [Request.op, Request.flagE, Request.flagR, Request.flagX, Request.reserved, hq]
  clear hq
  revert op e r x
  decide

/-- What decoding to an instruction means (R72 to R74). -/
theorem decode_eq_ok (q : Request) (i : Instr) :
    decode q = .ok i ↔
      q.reserved = 0 ∧ (q.flagE = true → q.op = 0x10) ∧ (q.flagR = true → q.op = 0x10 ∨ q.op = 0x11) ∧
        (q.flagX = true → q.op = 0x11) ∧ decodeOp q = some i ∧ i.wf = true := by
  constructor
  · intro h
    unfold decode at h
    split at h
    · cases h
    split at h
    · cases h
    split at h
    · cases h
    split at h
    · cases h
    rename_i h0 h1 h2 h3
    split at h
    · cases h
    rename_i j hd
    split at h
    · rename_i hw
      cases h
      exact ⟨not_not.mp h0, by tauto, by tauto, by tauto, hd, hw⟩
    · cases h
  · rintro ⟨h0, h1, h2, h3, hd, hw⟩
    unfold decode
    rw [if_neg (not_not.mpr h0), if_neg (by tauto), if_neg (by tauto), if_neg (by tauto), hd]
    simp only [hw, if_true]

/-- The control word of an encoded instruction (R77). -/
theorem encode_ctrl (i : Instr) :
    (encode i).ctrl = ctrlWord (i.opcode.setWidth 16) i.flagE i.flagR i.flagX := by
  cases i <;> rfl

/-- An encoded request is read back field by field. -/
theorem decodeOp_encode (i : Instr) : decodeOp (encode i) = some i := by
  obtain ⟨ho, hE, hR, hX, -⟩ := Request.fields_of_ctrlWord _ _ _ _ _ (encode_ctrl i)
  unfold decodeOp
  rw [ho, hE, hR, hX]
  cases i <;> rfl

/-- The operation code and the flags an operation carries are those of the request it was read from. -/
theorem decodeOp_fields (q : Request) (i : Instr) (h : decodeOp q = some i) :
    q.op = i.opcode ∧ (q.op = 0x10 → i.flagE = q.flagE) ∧ (q.op = 0x10 ∨ q.op = 0x11 → i.flagR = q.flagR) ∧
      (q.op = 0x11 → i.flagX = q.flagX) ∧ (q.op ≠ 0x10 → i.flagE = false) ∧
      (q.op ≠ 0x10 → q.op ≠ 0x11 → i.flagR = false) ∧ (q.op ≠ 0x11 → i.flagX = false) := by
  have hk : ∀ k : BitVec 5, q.op.toNat = k.toNat → q.op = k := fun k hk => BitVec.eq_of_toNat_eq hk
  have hop : q.op = i.opcode := by
    apply hk
    unfold decodeOp at h
    split at h
    all_goals first
      | cases h
        assumption
      | cases h
  refine ⟨hop, ?_⟩
  rw [hop]
  unfold decodeOp at h
  rw [hop] at h
  cases i <;> simp only [Instr.opcode] at h ⊢ <;>
    first
      | (refine ⟨?_, ?_, ?_, ?_, ?_, ?_⟩ <;> first | (intro hc; exact absurd hc (by decide)) | (intros; first | rfl | contradiction))
      | (cases h
         refine ⟨?_, ?_, ?_, ?_, ?_, ?_⟩ <;> first | (intro hc; exact absurd hc (by decide)) | (intros; first | rfl | contradiction))

end Sys2Proof
end

