-- ==== Sys2Proof/Laws/Operands.lean ====
section
/-! SUPPORT. The laws of the identifier fields and of the payload bytes: what each operation of
Machine/Operands.lean gives, said once. -/

namespace Sys2Proof.Machine

/-! ## The identifier -/

/-- For a node id and a command id nothing is cut off: the identifier is `32 * node + command` (R107). -/
theorem mkIdent_toNat (n c : Nat) (hn : n < 64) (hc : c < 32) : (mkIdent n c).toNat = 32 * n + c := by
  have h : n <<< 5 ||| c = 32 * n + c := by
    rw [← Nat.shiftLeft_add_eq_or_of_lt (by simpa using hc), Nat.shiftLeft_eq]
    omega
  rw [mkIdent, h, BitVec.toNat_ofNat]
  omega

@[simp] theorem nodeOf_toNat (i : Ident) : (nodeOf i).toNat = i.toNat / 32 := by
  have := i.isLt
  simp [nodeOf, BitVec.toNat_ushiftRight, Nat.shiftRight_eq_div_pow]
  omega

@[simp] theorem cmdOf_toNat (i : Ident) : (cmdOf i).toNat = i.toNat % 32 := by
  have h : i.toNat &&& 31 = i.toNat % 32 := Nat.and_two_pow_sub_one_eq_mod i.toNat 5
  have hc : (cmdOf i).toNat = (i.toNat &&& 31) % 32 := by
    simp only [cmdOf, BitVec.toNat_setWidth, BitVec.toNat_and]
    rfl
  omega

@[simp] theorem maskRaw_toNat (w : RawBus) : (maskRaw w).toNat = w.toNat % 2048 := by
  have h : w.toNat &&& 2047 = w.toNat % 2048 := Nat.and_two_pow_sub_one_eq_mod w.toNat 11
  have hc : (maskRaw w).toNat = (w.toNat &&& 2047) % 2048 := by
    simp only [maskRaw, BitVec.toNat_setWidth, BitVec.toNat_and]
    rfl
  omega

/-- The two fields of an identifier give it back (R106(d)). -/
theorem mkIdent_fields (i : Ident) : mkIdent (nodeOf i).toNat (cmdOf i).toNat = i := by
  have := i.isLt
  apply BitVec.eq_of_toNat_eq
  rw [mkIdent_toNat _ _ (by simp; omega) (by simp; omega)]
  simp
  omega

theorem nodeOf_mkIdent (n c : Nat) (hn : n < 64) (hc : c < 32) : (nodeOf (mkIdent n c)).toNat = n := by
  rw [nodeOf_toNat, mkIdent_toNat n c hn hc]
  omega

theorem cmdOf_mkIdent (n c : Nat) (hn : n < 64) (hc : c < 32) : (cmdOf (mkIdent n c)).toNat = c := by
  rw [cmdOf_toNat, mkIdent_toNat n c hn hc]
  omega

/-! ## The payload bytes -/

/-- Bit `k` of byte `i` is bit `8i + k` of the bus (R41). -/
theorem byteAt_getLsbD (p : PayBus) (i k : Nat) (hk : k < 8) :
    (byteAt p i).getLsbD k = p.getLsbD (8 * i + k) := by
  simp [byteAt, hk]

theorem ff_getLsbD (k : Nat) : (0xFF#64).getLsbD k = decide (k < 8) := by
  rw [BitVec.getLsbD_ofNat, show (255 : Nat) = 2 ^ 8 - 1 from rfl, Nat.testBit_two_pow_sub_one]
  by_cases h : k < 8 <;> simp [h]
  omega

/-- A write to one byte changes that byte and no other (R41, R43). -/
theorem byteAt_setByte (p : PayBus) (i j : Nat) (b : Byte) (hi : i < 8) (hj : j < 8) :
    byteAt (setByte p i b) j = if j = i then b else byteAt p j := by
  apply BitVec.eq_of_getLsbD_eq
  intro k hk
  have h64 : 8 * j + k < 64 := by omega
  rw [byteAt_getLsbD _ _ _ hk]
  simp only [setByte, BitVec.getLsbD_or, BitVec.getLsbD_and, BitVec.getLsbD_not, BitVec.getLsbD_shiftLeft,
    ff_getLsbD, BitVec.getLsbD_setWidth, h64, decide_true, Bool.true_and]
  split
  · rename_i h
    subst h
    have h0 : 8 * j + k - 8 * j = k := by omega
    have h1 : ¬ 8 * j + k < 8 * j := by omega
    have h2 : k < 64 := by omega
    simp [h0, h1, hk, h2]
  · rename_i h
    rw [byteAt_getLsbD _ _ _ hk]
    by_cases hlt : 8 * j + k < 8 * i
    · simp [hlt]
    · have h8 : ¬ 8 * j + k - 8 * i < 8 := by omega
      have hb : b.getLsbD (8 * j + k - 8 * i) = false := BitVec.getLsbD_of_ge _ _ (by omega)
      simp [h8, hb]

/-- A payload bus is its eight bytes (R41). -/
theorem payload_ext (p q : PayBus) (h : ∀ j < 8, byteAt p j = byteAt q j) : p = q := by
  apply BitVec.eq_of_getLsbD_eq
  intro k hk
  have hb := congrArg (fun b : Byte => b.getLsbD (k % 8)) (h (k / 8) (by omega))
  simp only [byteAt_getLsbD _ _ _ (Nat.mod_lt k (by decide : 0 < 8))] at hb
  rwa [show 8 * (k / 8) + k % 8 = k by omega] at hb

/-- The copied bytes, then zeros (R125, R130). -/
theorem byteAt_copyBytes (p : PayBus) (n j : Nat) (hn : n ≤ 8) (hj : j < 8) :
    byteAt (copyBytes p n) j = if j < n then byteAt p j else 0 := by
  induction n with
  | zero =>
    rw [if_neg (by omega)]
    apply BitVec.eq_of_getLsbD_eq
    intro k hk
    rw [byteAt_getLsbD _ _ _ hk]
    simp [copyBytes]
  | succ n ih =>
    rw [copyBytes, byteAt_setByte _ _ _ _ (by omega) hj, ih (by omega)]
    by_cases h1 : j = n
    · simp [h1]
    · by_cases h2 : j < n
      · rw [if_neg h1, if_pos h2, if_pos (by omega)]
      · rw [if_neg h1, if_neg h2, if_neg (by omega)]

/-- Every byte after `PayWrite`: the field's own bytes, and no other changed (R43). -/
theorem byteAt_payWrite (p : PayBus) (off n v j : Nat) (hn : off + n ≤ 8) (hj : j < 8) :
    byteAt (payWrite p off n v) j =
      if off ≤ j ∧ j < off + n then BitVec.ofNat 8 (v / 2 ^ (8 * (j - off))) else byteAt p j := by
  induction n with
  | zero => rw [if_neg (by omega)]; rfl
  | succ n ih =>
    rw [payWrite, byteAt_setByte _ _ _ _ (by omega) hj, ih (by omega)]
    by_cases h1 : j = off + n
    · subst h1
      have hv : (v >>> (8 * n)) &&& 0xFF = v / 2 ^ (8 * n) % 2 ^ 8 := by
        rw [Nat.shiftRight_eq_div_pow, ← Nat.and_two_pow_sub_one_eq_mod]
      rw [if_pos rfl, if_pos (by omega), hv, show off + n - off = n by omega]
      apply BitVec.eq_of_toNat_eq
      simp
    · by_cases h2 : off ≤ j ∧ j < off + n
      · rw [if_neg h1, if_pos h2, if_pos (by omega)]
      · rw [if_neg h1, if_neg h2, if_neg (by omega)]

theorem byteAt_zero (j : Nat) : byteAt 0 j = 0 := by
  apply BitVec.eq_of_getLsbD_eq
  intro k hk
  rw [byteAt_getLsbD _ _ _ hk]
  simp

/-- An n-byte read is an (8n)-bit value (R42). -/
theorem payRead_lt (p : PayBus) (off n : Nat) : payRead p off n < 2 ^ (8 * n) := by
  induction n with
  | zero => simp [payRead]
  | succ n ih =>
    have hb := (byteAt p (off + n)).isLt
    rw [payRead, Nat.shiftLeft_eq]
    have h2 : 2 ^ (8 * (n + 1)) = 2 ^ (8 * n) * 256 := by rw [show 8 * (n + 1) = 8 * n + 8 by omega, Nat.pow_add]
    nlinarith [Nat.two_pow_pos (8 * n)]

/-- A read looks at its own bytes only. -/
theorem payRead_congr (p q : PayBus) (off n : Nat) (h : ∀ k < n, byteAt p (off + k) = byteAt q (off + k)) :
    payRead p off n = payRead q off n := by
  induction n with
  | zero => rfl
  | succ n ih => rw [payRead, payRead, ih (fun k hk => h k (by omega)), h n (by omega)]
/-- Byte `k` of a read value is byte `off + k` of the payload. -/
theorem payRead_div (p : PayBus) (off n k : Nat) (hk : k < n) :
    payRead p off n / 2 ^ (8 * k) % 256 = (byteAt p (off + k)).toNat := by
  induction n with
  | zero => omega
  | succ n ih =>
    have hlt := payRead_lt p off n
    have hb := (byteAt p (off + n)).isLt
    rw [payRead, Nat.shiftLeft_eq]
    by_cases h : k = n
    · subst h
      rw [Nat.add_mul_div_right _ _ (Nat.two_pow_pos _), Nat.div_eq_of_lt hlt]
      omega
    · have hk' : k < n := by omega
      have hpow : 2 ^ (8 * n) = 2 ^ (8 * k) * (256 * 2 ^ (8 * (n - k - 1))) := by
        rw [show (256 : Nat) = 2 ^ 8 from rfl, ← Nat.pow_add, ← Nat.pow_add]
        congr 1
        omega
      rw [hpow, show (byteAt p (off + n)).toNat * (2 ^ (8 * k) * (256 * 2 ^ (8 * (n - k - 1)))) =
        2 ^ (8 * k) * (256 * ((byteAt p (off + n)).toNat * 2 ^ (8 * (n - k - 1)))) by ring,
        Nat.add_mul_div_left _ _ (Nat.two_pow_pos _), Nat.add_mul_mod_self_left]
      exact ih hk'

/-! ## The payload as a number and as bit fields -/

theorem byteAt_toNat (p : PayBus) (j : Nat) : (byteAt p j).toNat = p.toNat / 2 ^ (8 * j) % 256 := by
  simp [byteAt, Nat.shiftRight_eq_div_pow]

theorem append_toNat {m n : Nat} (a : BitVec m) (b : BitVec n) :
    (a ++ b).toNat = a.toNat * 2 ^ n + b.toNat := by
  rw [BitVec.toNat_append, ← Nat.shiftLeft_add_eq_or_of_lt b.isLt, Nat.shiftLeft_eq]

/-- A field read, zero-extended onto its result bus, is a bit field of the payload (R42, R111). -/
theorem payRead_bits (p : PayBus) (off n : Nat) :
    BitVec.ofNat 32 (payRead p off n) = (p.extractLsb' (8 * off) (8 * n)).setWidth 32 := by
  have h : payRead p off n = p.toNat / 2 ^ (8 * off) % 2 ^ (8 * n) := by
    induction n with
    | zero => simp [payRead]; omega
    | succ m ih =>
      rw [payRead, ih, byteAt_toNat, Nat.shiftLeft_eq, show 8 * (m + 1) = 8 * m + 8 by omega, Nat.pow_add,
        Nat.mod_mul, Nat.div_div_eq_div_mul, ← Nat.pow_add, show 8 * off + 8 * m = 8 * (off + m) by omega]
      ring
  apply BitVec.eq_of_toNat_eq
  rw [h]
  simp [Nat.shiftRight_eq_div_pow]

theorem decodeShape_empty (p : PayBus) : decodeShape .empty p = {} := rfl

theorem decodeShape_busvi (p : PayBus) :
    decodeShape .busvi p = { v0 := p.extractLsb' 0 32, v1 := p.extractLsb' 32 32 } := by
  simp only [decodeShape, shapeFields, readFields, Fields.set, payRead_bits]
  simp

theorem decodeShape_inpos (p : PayBus) :
    decodeShape .inpos p =
      { v0 := p.extractLsb' 0 32, v1 := (p.extractLsb' 32 16).setWidth 32,
        v2 := (p.extractLsb' 48 16).setWidth 32 } := by
  simp only [decodeShape, shapeFields, readFields, Fields.set, payRead_bits]
  simp

theorem decodeShape_hbeat (p : PayBus) :
    decodeShape .hbeat p =
      { v0 := p.extractLsb' 0 32, v1 := (p.extractLsb' 32 8).setWidth 32,
        v2 := (p.extractLsb' 40 8).setWidth 32, v3 := (p.extractLsb' 48 8).setWidth 32 } := by
  simp only [decodeShape, shapeFields, readFields, Fields.set, payRead_bits]
  simp

/-- The first `n` bytes of a payload are the payload modulo `2^(8n)` (R125, R130). -/
theorem copyBytes_eq (p : PayBus) (n : Nat) (hn : n ≤ 8) :
    copyBytes p n = BitVec.ofNat 64 (p.toNat % 2 ^ (8 * n)) := by
  apply payload_ext
  intro j hj
  rw [byteAt_copyBytes p n j hn hj]
  apply BitVec.eq_of_toNat_eq
  rw [byteAt_toNat]
  have h64 := p.isLt
  have hm : (BitVec.ofNat 64 (p.toNat % 2 ^ (8 * n))).toNat = p.toNat % 2 ^ (8 * n) := by
    rw [BitVec.toNat_ofNat, Nat.mod_eq_of_lt (lt_of_le_of_lt (Nat.mod_le _ _) h64)]
  rw [hm]
  split
  · rename_i h
    rw [byteAt_toNat, show 8 * n = 8 * j + 8 * (n - j) by omega, Nat.pow_add, Nat.mod_mul_right_div_self,
      show 8 * (n - j) = 8 + 8 * (n - j - 1) by omega, Nat.pow_add, Nat.mod_mul_right_mod]
  · rename_i h
    rw [Nat.div_eq_of_lt]
    · rfl
    · exact lt_of_lt_of_le (Nat.mod_lt _ (Nat.two_pow_pos _)) (Nat.pow_le_pow_right (by decide) (by omega))

end Sys2Proof.Machine
end

