-- ==== Sys2Proof/Laws/State.lean ====
section
/-! SUPPORT. One lemma per field per state update, and the reads of PEND and SUB after each update, so that
no later proof unfolds a record update. -/

namespace Sys2Proof.Machine

variable (s : State)

@[simp] theorem State.respond_pend (r : Response) : (s.respond r).pend = s.pend := rfl
@[simp] theorem State.respond_sub (r : Response) : (s.respond r).sub = s.sub := rfl
@[simp] theorem State.respond_cfg (r : Response) : (s.respond r).cfg = s.cfg := rfl
@[simp] theorem State.respond_hostQ (r : Response) : (s.respond r).hostQ = s.hostQ := rfl
@[simp] theorem State.respond_transportQ (r : Response) : (s.respond r).transportQ = s.transportQ := rfl
@[simp] theorem State.respond_schedule (r : Response) : (s.respond r).schedule = s.schedule := rfl
@[simp] theorem State.respond_served (r : Response) : (s.respond r).served = s.served := rfl
@[simp] theorem State.respond_client (r : Response) : (s.respond r).client = s.client := rfl
@[simp] theorem State.respond_response (r : Response) : (s.respond r).response = some r := rfl

@[simp] theorem State.setPend_pend (i : Ident) : (s.setPend i).pend = BitArray.setBit i s.pend := rfl
@[simp] theorem State.setPend_sub (i : Ident) : (s.setPend i).sub = s.sub := rfl
@[simp] theorem State.setPend_cfg (i : Ident) : (s.setPend i).cfg = s.cfg := rfl
@[simp] theorem State.setPend_hostQ (i : Ident) : (s.setPend i).hostQ = s.hostQ := rfl
@[simp] theorem State.setPend_transportQ (i : Ident) : (s.setPend i).transportQ = s.transportQ := rfl
@[simp] theorem State.setPend_schedule (i : Ident) : (s.setPend i).schedule = s.schedule := rfl
@[simp] theorem State.setPend_served (i : Ident) : (s.setPend i).served = s.served := rfl
@[simp] theorem State.setPend_client (i : Ident) : (s.setPend i).client = s.client := rfl
@[simp] theorem State.setPend_response (i : Ident) : (s.setPend i).response = s.response := rfl

@[simp] theorem State.clearPend_pend (i : Ident) : (s.clearPend i).pend = BitArray.clearBit i s.pend := rfl
@[simp] theorem State.clearPend_sub (i : Ident) : (s.clearPend i).sub = s.sub := rfl
@[simp] theorem State.clearPend_cfg (i : Ident) : (s.clearPend i).cfg = s.cfg := rfl
@[simp] theorem State.clearPend_hostQ (i : Ident) : (s.clearPend i).hostQ = s.hostQ := rfl
@[simp] theorem State.clearPend_transportQ (i : Ident) : (s.clearPend i).transportQ = s.transportQ := rfl
@[simp] theorem State.clearPend_schedule (i : Ident) : (s.clearPend i).schedule = s.schedule := rfl
@[simp] theorem State.clearPend_served (i : Ident) : (s.clearPend i).served = s.served := rfl
@[simp] theorem State.clearPend_client (i : Ident) : (s.clearPend i).client = s.client := rfl
@[simp] theorem State.clearPend_response (i : Ident) : (s.clearPend i).response = s.response := rfl

@[simp] theorem State.setSub_pend (n : NodeId) : (s.setSub n).pend = s.pend := rfl
@[simp] theorem State.setSub_sub (n : NodeId) : (s.setSub n).sub = BitArray.setBit n s.sub := rfl
@[simp] theorem State.setSub_cfg (n : NodeId) : (s.setSub n).cfg = s.cfg := rfl
@[simp] theorem State.setSub_hostQ (n : NodeId) : (s.setSub n).hostQ = s.hostQ := rfl
@[simp] theorem State.setSub_transportQ (n : NodeId) : (s.setSub n).transportQ = s.transportQ := rfl
@[simp] theorem State.setSub_schedule (n : NodeId) : (s.setSub n).schedule = s.schedule := rfl
@[simp] theorem State.setSub_served (n : NodeId) : (s.setSub n).served = s.served := rfl
@[simp] theorem State.setSub_client (n : NodeId) : (s.setSub n).client = s.client := rfl
@[simp] theorem State.setSub_response (n : NodeId) : (s.setSub n).response = s.response := rfl

@[simp] theorem State.clearSub_pend (n : NodeId) : (s.clearSub n).pend = s.pend := rfl
@[simp] theorem State.clearSub_sub (n : NodeId) : (s.clearSub n).sub = BitArray.clearBit n s.sub := rfl
@[simp] theorem State.clearSub_cfg (n : NodeId) : (s.clearSub n).cfg = s.cfg := rfl
@[simp] theorem State.clearSub_hostQ (n : NodeId) : (s.clearSub n).hostQ = s.hostQ := rfl
@[simp] theorem State.clearSub_transportQ (n : NodeId) : (s.clearSub n).transportQ = s.transportQ := rfl
@[simp] theorem State.clearSub_schedule (n : NodeId) : (s.clearSub n).schedule = s.schedule := rfl
@[simp] theorem State.clearSub_served (n : NodeId) : (s.clearSub n).served = s.served := rfl
@[simp] theorem State.clearSub_client (n : NodeId) : (s.clearSub n).client = s.client := rfl
@[simp] theorem State.clearSub_response (n : NodeId) : (s.clearSub n).response = s.response := rfl

@[simp] theorem State.resetBlock_pend : (s.resetBlock).pend = [] := rfl
@[simp] theorem State.resetBlock_sub : (s.resetBlock).sub = [] := rfl
@[simp] theorem State.resetBlock_cfg : (s.resetBlock).cfg = s.cfg := rfl
@[simp] theorem State.resetBlock_hostQ : (s.resetBlock).hostQ = s.hostQ := rfl
@[simp] theorem State.resetBlock_transportQ : (s.resetBlock).transportQ = s.transportQ := rfl
@[simp] theorem State.resetBlock_schedule : (s.resetBlock).schedule = s.schedule := rfl
@[simp] theorem State.resetBlock_served : (s.resetBlock).served = s.served := rfl
@[simp] theorem State.resetBlock_client : (s.resetBlock).client = none := rfl
@[simp] theorem State.resetBlock_response : (s.resetBlock).response = none := rfl

@[simp] theorem State.take_pend (a : Agent) (q : List Request) : (s.take a q).pend = s.pend := by
  cases a <;> rfl
@[simp] theorem State.take_sub (a : Agent) (q : List Request) : (s.take a q).sub = s.sub := by
  cases a <;> rfl
@[simp] theorem State.take_cfg (a : Agent) (q : List Request) : (s.take a q).cfg = s.cfg := by
  cases a <;> rfl
@[simp] theorem State.take_schedule (a : Agent) (q : List Request) : (s.take a q).schedule = s.schedule.tail := by
  cases a <;> rfl
@[simp] theorem State.take_served (a : Agent) (q : List Request) : (s.take a q).served = s.served + 1 := by
  cases a <;> rfl
@[simp] theorem State.take_client (a : Agent) (q : List Request) : (s.take a q).client = some a := by
  cases a <;> rfl
@[simp] theorem State.take_response (a : Agent) (q : List Request) : (s.take a q).response = s.response := by
  cases a <;> rfl

@[simp] theorem State.take_host_hostQ (q : List Request) : (s.take .host q).hostQ = q := rfl
@[simp] theorem State.take_host_transportQ (q : List Request) :
    (s.take .host q).transportQ = s.transportQ := rfl
@[simp] theorem State.take_transport_hostQ (q : List Request) : (s.take .transport q).hostQ = s.hostQ := rfl
@[simp] theorem State.take_transport_transportQ (q : List Request) :
    (s.take .transport q).transportQ = q := rfl

/-! ## Reads of PEND and SUB -/

@[simp] theorem State.respond_pendAt (r : Response) (i : Ident) : (s.respond r).pendAt i = s.pendAt i := rfl
@[simp] theorem State.respond_subAt (r : Response) (n : NodeId) : (s.respond r).subAt n = s.subAt n := rfl
@[simp] theorem State.respond_active (r : Response) (n : NodeId) : (s.respond r).active n = s.active n := rfl

@[simp] theorem State.setPend_pendAt (i j : Ident) :
    (s.setPend i).pendAt j = (decide (j = i) || s.pendAt j) := by
  simp [State.pendAt]

@[simp] theorem State.clearPend_pendAt (i j : Ident) :
    (s.clearPend i).pendAt j = (!decide (j = i) && s.pendAt j) := by
  simp [State.pendAt]

@[simp] theorem State.setPend_subAt (i : Ident) (n : NodeId) : (s.setPend i).subAt n = s.subAt n := rfl
@[simp] theorem State.clearPend_subAt (i : Ident) (n : NodeId) : (s.clearPend i).subAt n = s.subAt n := rfl

@[simp] theorem State.setSub_subAt (n m : NodeId) :
    (s.setSub n).subAt m = (decide (m = n) || s.subAt m) := by
  simp [State.subAt]

@[simp] theorem State.clearSub_subAt (n m : NodeId) :
    (s.clearSub n).subAt m = (!decide (m = n) && s.subAt m) := by
  simp [State.subAt]

@[simp] theorem State.setSub_pendAt (n : NodeId) (i : Ident) : (s.setSub n).pendAt i = s.pendAt i := rfl
@[simp] theorem State.clearSub_pendAt (n : NodeId) (i : Ident) : (s.clearSub n).pendAt i = s.pendAt i := rfl

@[simp] theorem State.resetBlock_pendAt (i : Ident) : s.resetBlock.pendAt i = false := rfl
@[simp] theorem State.resetBlock_subAt (n : NodeId) : s.resetBlock.subAt n = false := rfl

end Sys2Proof.Machine
end

