-- ==== Sys2Proof/Laws/Ops.lean ====
section
/-! SUPPORT. What each shared operation can do, said once: the checks, the ends of a request, the receive
path's last step, the port; and the shape of every operation's next state. Later proofs cite these and do
not unfold the operations. -/

namespace Sys2Proof.Machine

@[simp] theorem finish_eq (r : Response) (s : State) : finish r s = .next (s.respond r) := rfl

@[simp] theorem raise_eq (st : Status) (s : State) : raise st s = .next (s.respond { status := st }) := rfl

/-! ## The checks -/

theorem withLen_legal (len : LenBus) (s : State) (k : Result) (h : len.toNat ≤ 8) : withLen len s k = k := by
  simp [withLen, lenOk, h]

theorem withLen_illegal (len : LenBus) (s : State) (k : Result) (h : 8 < len.toNat) :
    withLen len s k = .next (s.respond { status := .illegalRequest }) := by
  simp [withLen, lenOk, Nat.not_le.mpr h]

theorem withPair_inRange (n c : IdBus) (s : State) (k : Ident → Result) (hn : n.toNat < 64)
    (hc : c.toNat < 32) : withPair n c s k = k (mkIdent n.toNat c.toNat) := by
  simp [withPair, nodeInRange, cmdInRange, hn, hc]

theorem withPair_outOfRange (n c : IdBus) (s : State) (k : Ident → Result)
    (h : 64 ≤ n.toNat ∨ 32 ≤ c.toNat) :
    withPair n c s k = .next (s.respond { status := .outOfRange }) := by
  have hb : (nodeInRange n && cmdInRange c) = false := by
    rcases h with h | h <;> simp [nodeInRange, cmdInRange] <;> omega
  simp [withPair, hb]

theorem withNode_inRange (n : IdBus) (s : State) (k : NodeId → Result) (hn : n.toNat < 64) :
    withNode n s k = k (BitVec.ofNat 6 n.toNat) := by
  simp [withNode, nodeInRange, hn]

theorem withNode_outOfRange (n : IdBus) (s : State) (k : NodeId → Result) (hn : 64 ≤ n.toNat) :
    withNode n s k = .next (s.respond { status := .outOfRange }) := by
  simp [withNode, nodeInRange, Nat.not_lt.mpr hn]

/-! ## The node filter -/

/-- A node is active exactly when it is subscribed or one of its identifiers is pending (R25). -/
theorem active_iff (s : State) (n : NodeId) :
    s.active n = true ↔ s.subAt n = true ∨ ∃ i, nodeOf i = n ∧ s.pendAt i = true := by
  simp only [State.active, Bool.or_eq_true, List.any_eq_true, List.mem_range]
  refine or_congr_right ⟨?_, ?_⟩
  · rintro ⟨c, hc, hp⟩
    exact ⟨_, BitVec.eq_of_toNat_eq (nodeOf_mkIdent _ c n.isLt hc), hp⟩
  · rintro ⟨i, rfl, hp⟩
    refine ⟨(cmdOf i).toNat, (cmdOf i).isLt, ?_⟩
    rwa [mkIdent_fields]

/-- A pending request makes its node active (R25, R173). -/
theorem active_of_pending (s : State) (i : Ident) (h : s.pendAt i = true) : s.active (nodeOf i) = true :=
  (active_iff s _).mpr (Or.inr ⟨i, rfl, h⟩)

/-! ## Ends of a request -/

/-- The end of the receive path: COMPLETED and the bit cleared, or UNSOLICITED or DISCARDED and nothing
written (R135, R141 to R143). -/
theorem deliver_cases (i : Ident) (telemetry : Bool) (r : Response) (s : State) :
    (s.pendAt i = true ∧
      deliver i telemetry r s = .next ((s.clearPend i).respond { r with status := .completed })) ∨
    (s.pendAt i = false ∧ telemetry = true ∧
      deliver i telemetry r s = .next (s.respond { r with status := .unsolicited })) ∨
    (s.pendAt i = false ∧ telemetry = false ∧
      deliver i telemetry r s = .next (s.respond { r with status := .discarded })) := by
  cases hp : s.pendAt i <;> cases telemetry <;> simp [deliver, hp]

/-- CANCEL and TIMEOUT: out of range, or the pending bit cleared and the terminal status reported, or
NOT_PENDING (R145, R146). -/
theorem endPending_cases (terminal : Status) (n c : IdBus) (s : State) :
    ((64 ≤ n.toNat ∨ 32 ≤ c.toNat) ∧
      endPending terminal n c s = .next (s.respond { status := .outOfRange })) ∨
    ((n.toNat < 64 ∧ c.toNat < 32) ∧ s.pendAt (mkIdent n.toNat c.toNat) = true ∧
      endPending terminal n c s =
        .next ((s.clearPend (mkIdent n.toNat c.toNat)).respond
          { status := terminal, idOut := mkIdent n.toNat c.toNat })) ∨
    ((n.toNat < 64 ∧ c.toNat < 32) ∧ s.pendAt (mkIdent n.toNat c.toNat) = false ∧
      endPending terminal n c s =
        .next (s.respond { status := .notPending, idOut := mkIdent n.toNat c.toNat })) := by
  by_cases h : n.toNat < 64 ∧ c.toNat < 32
  · rw [endPending, withPair_inRange n c s _ h.1 h.2]
    cases hp : s.pendAt (mkIdent n.toNat c.toNat) <;> simp [h]
  · have h' : 64 ≤ n.toNat ∨ 32 ≤ c.toNat := by omega
    exact Or.inl ⟨h', withPair_outOfRange n c s _ h'⟩

/-- DEC_S: illegal, too short, or decoded (R74, R111). -/
theorem decodeFixed_cases (S : FixedShape) (len : LenBus) (p : PayBus) (s : State) :
    (8 < len.toNat ∧ decodeFixed S len p s = .next (s.respond { status := .illegalRequest })) ∨
    (len.toNat ≤ 8 ∧ len.toNat < shapeLen S ∧
      decodeFixed S len p s = .next (s.respond { status := .malformedPayload })) ∨
    (len.toNat ≤ 8 ∧ shapeLen S ≤ len.toNat ∧
      decodeFixed S len p s = .next (s.respond (decodeFixedInto S p { status := .ok }))) := by
  by_cases h : len.toNat ≤ 8
  · rw [decodeFixed, withLen_legal len s _ h]
    by_cases hs : len.toNat < shapeLen S <;> simp [tooShort, hs, h]
    omega
  · exact Or.inl ⟨by omega, withLen_illegal len s _ (by omega)⟩

/-- SEND: illegal, out of range, busy, or the frame emitted with the pending bit set when a reply is
expected (R130). -/
theorem execSend_cases (e r : Bool) (n c : IdBus) (len : LenBus) (p : PayBus) (s : State) :
    (8 < len.toNat ∧ execSend e r n c len p s = .next (s.respond { status := .illegalRequest })) ∨
    (len.toNat ≤ 8 ∧ (64 ≤ n.toNat ∨ 32 ≤ c.toNat) ∧
      execSend e r n c len p s = .next (s.respond { status := .outOfRange })) ∨
    (len.toNat ≤ 8 ∧ n.toNat < 64 ∧ c.toNat < 32 ∧ e = true ∧ s.pendAt (mkIdent n.toNat c.toNat) = true ∧
      execSend e r n c len p s = .next (s.respond { status := .busy })) ∨
    (len.toNat ≤ 8 ∧ n.toNat < 64 ∧ c.toNat < 32 ∧ e = true ∧ s.pendAt (mkIdent n.toNat c.toNat) = false ∧
      execSend e r n c len p s =
        .next ((s.setPend (mkIdent n.toNat c.toNat)).respond
          (emitInto (mkIdent n.toNat c.toNat) r len p { status := .ok, idOut := mkIdent n.toNat c.toNat }))) ∨
    (len.toNat ≤ 8 ∧ n.toNat < 64 ∧ c.toNat < 32 ∧ e = false ∧
      execSend e r n c len p s =
        .next (s.respond
          (emitInto (mkIdent n.toNat c.toNat) r len p
            { status := .ok, idOut := mkIdent n.toNat c.toNat }))) := by
  by_cases hl : len.toNat ≤ 8
  · by_cases h : n.toNat < 64 ∧ c.toNat < 32
    · rw [execSend, withLen_legal len s _ hl, withPair_inRange n c s _ h.1 h.2]
      cases e <;> cases hp : s.pendAt (mkIdent n.toNat c.toNat) <;> simp [h, hl]
    · have h' : 64 ≤ n.toNat ∨ 32 ≤ c.toNat := by omega
      refine Or.inr (Or.inl ⟨hl, h', ?_⟩)
      rw [execSend, withLen_legal len s _ hl, withPair_outOfRange n c s _ h']
  · exact Or.inl ⟨by omega, withLen_illegal len s _ (by omega)⟩

/-- RECV, in the order of its tests (R135, R136): illegal, format, node filter, unknown command, too short,
or decoded and delivered. -/
theorem execRecv_cases (r x : Bool) (i : Ident) (len : LenBus) (p : PayBus) (s : State) :
    (8 < len.toNat ∧ execRecv r x i len p s = .next (s.respond { status := .illegalRequest })) ∨
    (len.toNat ≤ 8 ∧ (x || r) = true ∧
      execRecv r x i len p s = .next (s.respond { status := .ignoredFormat })) ∨
    (len.toNat ≤ 8 ∧ x = false ∧ r = false ∧ s.active (nodeOf i) = false ∧
      execRecv r x i len p s = .next (s.respond (frameReport .ignoredNode i))) ∨
    (len.toNat ≤ 8 ∧ x = false ∧ r = false ∧ s.active (nodeOf i) = true ∧
      classify s.cfg (cmdOf i) = .unknown ∧
      execRecv r x i len p s = .next (s.respond (frameReport .unknownCommand i))) ∨
    (len.toNat ≤ 8 ∧ x = false ∧ r = false ∧ s.active (nodeOf i) = true ∧
      classify s.cfg (cmdOf i) = .endpoint ∧
      execRecv r x i len p s = deliver i false (decodeEndptInto len p (frameReport .discarded i)) s) ∨
    (∃ entry, len.toNat ≤ 8 ∧ x = false ∧ r = false ∧ s.active (nodeOf i) = true ∧
      classify s.cfg (cmdOf i) = .fixed entry ∧ len.toNat < shapeLen entry.rxShape ∧
      execRecv r x i len p s = .next (s.respond (frameReport .malformedPayload i))) ∨
    (∃ entry, len.toNat ≤ 8 ∧ x = false ∧ r = false ∧ s.active (nodeOf i) = true ∧
      classify s.cfg (cmdOf i) = .fixed entry ∧ shapeLen entry.rxShape ≤ len.toNat ∧
      execRecv r x i len p s =
        deliver i entry.telemetry (decodeFixedInto entry.rxShape p (frameReport .discarded i)) s) := by
  by_cases hl : len.toNat ≤ 8
  · by_cases hf : (x || r) = true
    · exact Or.inr (Or.inl ⟨hl, hf, by simp only [execRecv, withLen_legal len s _ hl, hf, if_true, raise_eq]⟩)
    · obtain ⟨rfl, rfl⟩ : x = false ∧ r = false := by simpa using hf
      cases ha : s.active (nodeOf i)
      · simp [execRecv, withLen_legal len s _ hl, ha, hl]
      · cases hc : classify s.cfg (cmdOf i) with
        | unknown => simp [execRecv, withLen_legal len s _ hl, ha, hl, hc]
        | endpoint => simp [execRecv, withLen_legal len s _ hl, ha, hl, hc]
        | fixed entry =>
          by_cases hs : len.toNat < shapeLen entry.rxShape
          · simp [execRecv, withLen_legal len s _ hl, ha, hl, hc, tooShort, hs]
          · simp [execRecv, withLen_legal len s _ hl, ha, hl, hc, tooShort, hs]
            omega
  · exact Or.inl ⟨by omega, withLen_illegal len s _ (by omega)⟩

/-! ## The shape of every operation's next state -/

/-- The receive path's last step writes PEND and the response, nothing else. -/
theorem deliver_shape (i : Ident) (telemetry : Bool) (r : Response) (s : State) :
    ∃ p d, deliver i telemetry r s = .next { s with pend := p, response := some d } := by
  rcases deliver_cases i telemetry r s with ⟨-, h⟩ | ⟨-, -, h⟩ | ⟨-, -, h⟩ <;> exact ⟨_, _, h⟩

/-- Every operation answers a next state that differs from the state before at most in PEND, SUB and the
response, and holds a response (R12, R28). -/
theorem exec_shape (i : Instr) (s : State) :
    ∃ p q d, exec i s = .next { s with pend := p, sub := q, response := some d } := by
  have hfixed : ∀ (S : FixedShape) (len : LenBus) (p : PayBus),
      ∃ p' q' d, decodeFixed S len p s = .next { s with pend := p', sub := q', response := some d } := by
    intro S len p
    rcases decodeFixed_cases S len p s with ⟨-, h⟩ | ⟨-, -, h⟩ | ⟨-, -, h⟩ <;> exact ⟨_, _, _, h⟩
  have hend : ∀ (terminal : Status) (n c : IdBus),
      ∃ p' q' d, endPending terminal n c s = .next { s with pend := p', sub := q', response := some d } := by
    intro terminal n c
    rcases endPending_cases terminal n c s with ⟨-, h⟩ | ⟨-, -, h⟩ | ⟨-, -, h⟩ <;> exact ⟨_, _, _, h⟩
  cases i with
  | idPack n c => simp only [exec, execIdPack, withPair]; split <;> exact ⟨_, _, _, rfl⟩
  | idFromRaw w => exact ⟨_, _, _, rfl⟩
  | idNode i => exact ⟨_, _, _, rfl⟩
  | idCmd i => exact ⟨_, _, _, rfl⟩
  | idRaw i => exact ⟨_, _, _, rfl⟩
  | encEmpty => exact ⟨_, _, _, rfl⟩
  | decEmpty len p => exact hfixed .empty len p
  | encBusvi a0 a1 => exact ⟨_, _, _, rfl⟩
  | decBusvi len p => exact hfixed .busvi len p
  | encInpos a0 a1 a2 => exact ⟨_, _, _, rfl⟩
  | decInpos len p => exact hfixed .inpos len p
  | encHbeat a0 a1 a2 a3 => exact ⟨_, _, _, rfl⟩
  | decHbeat len p => exact hfixed .hbeat len p
  | encEndpt len p => simp only [exec, execEncEndpt, withLen]; split <;> exact ⟨_, _, _, rfl⟩
  | decEndpt len p => simp only [exec, execDecEndpt, withLen]; split <;> exact ⟨_, _, _, rfl⟩
  | send e r n c len p =>
    rcases execSend_cases e r n c len p s with
      ⟨-, h⟩ | ⟨-, -, h⟩ | ⟨-, -, -, -, -, h⟩ | ⟨-, -, -, -, -, h⟩ | ⟨-, -, -, -, h⟩ <;> exact ⟨_, _, _, h⟩
  | recv r x i len p =>
    rcases execRecv_cases r x i len p s with
      ⟨-, h⟩ | ⟨-, -, h⟩ | ⟨-, -, -, -, h⟩ | ⟨-, -, -, -, -, h⟩ | ⟨-, -, -, -, -, h⟩ |
      ⟨-, -, -, -, -, -, -, h⟩ | ⟨entry, -, -, -, -, -, -, h⟩
    · exact ⟨_, _, _, h⟩
    · exact ⟨_, _, _, h⟩
    · exact ⟨_, _, _, h⟩
    · exact ⟨_, _, _, h⟩
    · obtain ⟨p', d, hd⟩ := deliver_shape i false (decodeEndptInto len p (frameReport .discarded i)) s
      exact ⟨_, _, _, h.trans hd⟩
    · exact ⟨_, _, _, h⟩
    · obtain ⟨p', d, hd⟩ := deliver_shape i entry.telemetry
        (decodeFixedInto entry.rxShape p (frameReport .discarded i)) s
      exact ⟨_, _, _, h.trans hd⟩
  | cancel n c => exact hend .cancelled n c
  | timeout n c => exact hend .timeout n c
  | subscribe n => simp only [exec, execSubscribe, withNode]; split <;> exact ⟨_, _, _, rfl⟩
  | unsubscribe n => simp only [exec, execUnsubscribe, withNode]; split <;> exact ⟨_, _, _, rfl⟩

/-! ## What an operation does to PEND and SUB -/

/-- All an operation can do, by its effect on the block's state (R23, R24): answer only; open a pending
request (SEND with E = 1); complete one (RECV); end one (CANCEL, TIMEOUT); write one subscription bit. -/
theorem exec_cases (i : Instr) (s t : State) (d : Response) (h : exec i s = .next t)
    (hd : t.response = some d) :
    (t = s.respond d ∧ d.status ≠ .completed ∧ d.status ≠ .timeout ∧ d.status ≠ .cancelled ∧
      ∀ r n c len p, i = .send true r n c len p → d.status ≠ .ok) ∨
    (∃ r n c len p, i = .send true r n c len p ∧ n.toNat < 64 ∧ c.toNat < 32 ∧ len.toNat ≤ 8 ∧
      s.pendAt (mkIdent n.toNat c.toNat) = false ∧ t = (s.setPend (mkIdent n.toNat c.toNat)).respond d ∧
      d = emitInto (mkIdent n.toNat c.toNat) r len p { status := .ok, idOut := mkIdent n.toNat c.toNat }) ∨
    (∃ j len p, i = .recv false false j len p ∧ len.toNat ≤ 8 ∧ s.pendAt j = true ∧
      (classify s.cfg (cmdOf j) = .endpoint ∨
        ∃ entry, classify s.cfg (cmdOf j) = .fixed entry ∧ shapeLen entry.rxShape ≤ len.toNat) ∧
      d.status = .completed ∧ d.idOut = j ∧ t = (s.clearPend j).respond d) ∨
    (∃ n c, (i = .cancel n c ∧ d.status = .cancelled ∨ i = .timeout n c ∧ d.status = .timeout) ∧
      n.toNat < 64 ∧ c.toNat < 32 ∧ s.pendAt (mkIdent n.toNat c.toNat) = true ∧
      d = { status := d.status, idOut := mkIdent n.toNat c.toNat } ∧
      t = (s.clearPend (mkIdent n.toNat c.toNat)).respond d) ∨
    (∃ n, n.toNat < 64 ∧ d = { status := .ok, nodeOut := BitVec.ofNat 6 n.toNat } ∧
      (i = .subscribe n ∧ t = (s.setSub (BitVec.ofNat 6 n.toNat)).respond d ∨
        i = .unsubscribe n ∧ t = (s.clearSub (BitVec.ofNat 6 n.toNat)).respond d)) := by
  -- the next state is the one an equation for `exec i s` names
  have hnext : ∀ (u : State) (r : Response), exec i s = .next (u.respond r) → t = u.respond d ∧ d = r := by
    intro u r he
    rw [h] at he
    cases he
    cases hd
    exact ⟨rfl, rfl⟩
  -- the first case, from such an equation over the state unchanged
  have hsame : ∀ r : Response, exec i s = .next (s.respond r) →
      r.status ≠ .completed ∧ r.status ≠ .timeout ∧ r.status ≠ .cancelled ∧
        (∀ b n c len p, i = .send true b n c len p → r.status ≠ .ok) →
      t = s.respond d ∧ d.status ≠ .completed ∧ d.status ≠ .timeout ∧ d.status ≠ .cancelled ∧
        ∀ b n c len p, i = .send true b n c len p → d.status ≠ .ok := by
    intro r he hr
    obtain ⟨ht, rfl⟩ := hnext s r he
    exact ⟨ht, hr⟩
  have hfixed : ∀ (S : FixedShape) (len : LenBus) (p : PayBus), exec i s = decodeFixed S len p s →
      (∀ b n c len p, i ≠ .send true b n c len p) →
      t = s.respond d ∧ d.status ≠ .completed ∧ d.status ≠ .timeout ∧ d.status ≠ .cancelled ∧
        ∀ b n c len p, i = .send true b n c len p → d.status ≠ .ok := by
    intro S len p he hi
    rcases decodeFixed_cases S len p s with ⟨-, hx⟩ | ⟨-, -, hx⟩ | ⟨-, -, hx⟩
    · exact hsame _ (he.trans hx) (by simp)
    · exact hsame _ (he.trans hx) (by simp)
    · exact hsame _ (he.trans hx) ⟨by simp [decodeFixedInto, Response.withFields],
        by simp [decodeFixedInto, Response.withFields], by simp [decodeFixedInto, Response.withFields],
        fun b n c len p hs => absurd hs (hi b n c len p)⟩
  cases i with
  | idPack n c =>
    by_cases hr : n.toNat < 64 ∧ c.toNat < 32
    · exact Or.inl (hsame _ (by simp only [exec, execIdPack]; exact withPair_inRange n c s _ hr.1 hr.2)
        (by simp))
    · exact Or.inl (hsame _ (by simp only [exec, execIdPack]; exact withPair_outOfRange n c s _ (by omega))
        (by simp))
  | idFromRaw w => exact Or.inl (hsame _ rfl (by simp))
  | idNode j => exact Or.inl (hsame _ rfl (by simp))
  | idCmd j => exact Or.inl (hsame _ rfl (by simp))
  | idRaw j => exact Or.inl (hsame _ rfl (by simp))
  | encEmpty => exact Or.inl (hsame _ rfl (by simp [encodedResponse]))
  | decEmpty len p => exact Or.inl (hfixed .empty len p rfl (by simp))
  | encBusvi a0 a1 => exact Or.inl (hsame _ rfl (by simp [encodedResponse]))
  | decBusvi len p => exact Or.inl (hfixed .busvi len p rfl (by simp))
  | encInpos a0 a1 a2 => exact Or.inl (hsame _ rfl (by simp [encodedResponse]))
  | decInpos len p => exact Or.inl (hfixed .inpos len p rfl (by simp))
  | encHbeat a0 a1 a2 a3 => exact Or.inl (hsame _ rfl (by simp [encodedResponse]))
  | decHbeat len p => exact Or.inl (hfixed .hbeat len p rfl (by simp))
  | encEndpt len p =>
    by_cases hl : len.toNat ≤ 8
    · exact Or.inl (hsame _ (withLen_legal len s _ hl) (by simp))
    · exact Or.inl (hsame _ (withLen_illegal len s _ (by omega)) (by simp))
  | decEndpt len p =>
    by_cases hl : len.toNat ≤ 8
    · exact Or.inl (hsame _ (withLen_legal len s _ hl) (by simp [decodeEndptInto]))
    · exact Or.inl (hsame _ (withLen_illegal len s _ (by omega)) (by simp))
  | send e r n c len p =>
    rcases execSend_cases e r n c len p s with
      ⟨-, hx⟩ | ⟨-, -, hx⟩ | ⟨-, -, -, -, -, hx⟩ | ⟨h1, h2, h3, rfl, h5, hx⟩ | ⟨-, -, -, rfl, hx⟩
    · exact Or.inl (hsame _ hx (by simp))
    · exact Or.inl (hsame _ hx (by simp))
    · exact Or.inl (hsame _ hx (by simp))
    · obtain ⟨ht, hdr⟩ := hnext _ _ hx
      exact Or.inr (Or.inl ⟨r, n, c, len, p, rfl, h2, h3, h1, h5, ht, hdr⟩)
    · exact Or.inl (hsame _ hx (by simp [emitInto]))
  | recv r x j len p =>
    -- a decoded frame: it completes the pending request, or it is reported and nothing else changes
    have hdeliver : ∀ (telemetry : Bool) (q : Response), q.idOut = j →
        exec (.recv r x j len p) s = deliver j telemetry q s →
        (t = s.respond d ∧ d.status ≠ .completed ∧ d.status ≠ .timeout ∧ d.status ≠ .cancelled ∧
          ∀ b n c l w, Instr.recv r x j len p = .send true b n c l w → d.status ≠ .ok) ∨
        (s.pendAt j = true ∧ d.status = .completed ∧ d.idOut = j ∧ t = (s.clearPend j).respond d) := by
      intro telemetry q hq he
      rcases deliver_cases j telemetry q s with ⟨hp, hx⟩ | ⟨-, -, hx⟩ | ⟨-, -, hx⟩
      · obtain ⟨ht, rfl⟩ := hnext _ _ (he.trans hx)
        exact Or.inr ⟨hp, rfl, hq, ht⟩
      · exact Or.inl (hsame _ (he.trans hx) (by simp))
      · exact Or.inl (hsame _ (he.trans hx) (by simp))
    rcases execRecv_cases r x j len p s with
      ⟨-, hx⟩ | ⟨-, -, hx⟩ | ⟨-, -, -, -, hx⟩ | ⟨-, -, -, -, -, hx⟩ | ⟨h1, rfl, rfl, -, h5, hx⟩ |
      ⟨-, -, -, -, -, -, -, hx⟩ | ⟨entry, h1, rfl, rfl, -, h5, h6, hx⟩
    · exact Or.inl (hsame _ hx (by simp))
    · exact Or.inl (hsame _ hx (by simp))
    · exact Or.inl (hsame _ hx (by simp [frameReport]))
    · exact Or.inl (hsame _ hx (by simp [frameReport]))
    · rcases hdeliver _ _ rfl hx with hs | ⟨hp, h7, h8, h9⟩
      · exact Or.inl hs
      · exact Or.inr (Or.inr (Or.inl ⟨j, len, p, rfl, h1, hp, Or.inl h5, h7, h8, h9⟩))
    · exact Or.inl (hsame _ hx (by simp [frameReport]))
    · rcases hdeliver _ _ rfl hx with hs | ⟨hp, h7, h8, h9⟩
      · exact Or.inl hs
      · exact Or.inr (Or.inr (Or.inl ⟨j, len, p, rfl, h1, hp, Or.inr ⟨entry, h5, h6⟩, h7, h8, h9⟩))
  | cancel n c =>
    rcases endPending_cases .cancelled n c s with ⟨-, hx⟩ | ⟨hr, hp, hx⟩ | ⟨-, -, hx⟩
    · exact Or.inl (hsame _ hx (by simp))
    · obtain ⟨ht, rfl⟩ := hnext _ _ hx
      exact Or.inr (Or.inr (Or.inr (Or.inl ⟨n, c, Or.inl ⟨rfl, rfl⟩, hr.1, hr.2, hp, rfl, ht⟩)))
    · exact Or.inl (hsame _ hx (by simp))
  | timeout n c =>
    rcases endPending_cases .timeout n c s with ⟨-, hx⟩ | ⟨hr, hp, hx⟩ | ⟨-, -, hx⟩
    · exact Or.inl (hsame _ hx (by simp))
    · obtain ⟨ht, rfl⟩ := hnext _ _ hx
      exact Or.inr (Or.inr (Or.inr (Or.inl ⟨n, c, Or.inr ⟨rfl, rfl⟩, hr.1, hr.2, hp, rfl, ht⟩)))
    · exact Or.inl (hsame _ hx (by simp))
  | subscribe n =>
    by_cases hn : n.toNat < 64
    · obtain ⟨ht, rfl⟩ := hnext (s.setSub (BitVec.ofNat 6 n.toNat)) _
        (by simp only [exec, execSubscribe]; exact withNode_inRange n s _ hn)
      exact Or.inr (Or.inr (Or.inr (Or.inr ⟨n, hn, rfl, Or.inl ⟨rfl, ht⟩⟩)))
    · exact Or.inl (hsame _ (by simp only [exec, execSubscribe]; exact withNode_outOfRange n s _ (by omega))
        (by simp))
  | unsubscribe n =>
    by_cases hn : n.toNat < 64
    · obtain ⟨ht, rfl⟩ := hnext (s.clearSub (BitVec.ofNat 6 n.toNat)) _
        (by simp only [exec, execUnsubscribe]; exact withNode_inRange n s _ hn)
      exact Or.inr (Or.inr (Or.inr (Or.inr ⟨n, hn, rfl, Or.inr ⟨rfl, ht⟩⟩)))
    · exact Or.inl (hsame _ (by simp only [exec, execUnsubscribe]; exact withNode_outOfRange n s _ (by omega))
        (by simp))

/-! ## The port -/

/-- The port when the scheduled turn grants agent `a` and `a` waits: `a`'s oldest request is taken. -/
theorem fetch_granted (s : State) (a : Agent) (q : Request) (rest : List Request) (turns : List Turn)
    (hs : s.schedule = .grant a :: turns) (hq : s.queue a = q :: rest) :
    fetch s = .request q (s.take a rest) := by
  cases a
  · simp only [State.queue] at hq
    cases ht : s.transportQ <;> simp [fetch, hs, hq, ht, State.choice]
  · simp only [State.queue] at hq
    cases hh : s.hostQ <;> simp [fetch, hs, hq, hh, State.choice]

/-- All the port can do: idle, reset, or take the oldest request of one agent. -/
theorem fetch_cases (s : State) :
    (s.hostQ = [] ∧ s.transportQ = [] ∧ (∀ turns, s.schedule ≠ .reset :: turns) ∧
      fetch s = .idle { s with schedule := s.schedule.tail }) ∨
    (∃ turns, s.schedule = .reset :: turns ∧ fetch s = .reset { s with schedule := turns }) ∨
    (∃ a q rest, s.queue a = q :: rest ∧ (∀ turns, s.schedule ≠ .reset :: turns) ∧
      fetch s = .request q (s.take a rest)) := by
  rcases hs : s.schedule with _ | ⟨(a | _), turns⟩
  · rcases hh : s.hostQ with _ | ⟨qh, rh⟩ <;> rcases ht : s.transportQ with _ | ⟨qt, rt⟩
    · simp [fetch, hs, hh, ht]
    · exact Or.inr (Or.inr ⟨.transport, qt, rt, ht, by simp, by simp [fetch, hs, hh, ht]⟩)
    · exact Or.inr (Or.inr ⟨.host, qh, rh, hh, by simp, by simp [fetch, hs, hh, ht]⟩)
    · cases hc : s.choice
      · exact Or.inr (Or.inr ⟨.host, qh, rh, hh, by simp, by simp [fetch, hs, hh, ht, hc]⟩)
      · exact Or.inr (Or.inr ⟨.transport, qt, rt, ht, by simp, by simp [fetch, hs, hh, ht, hc]⟩)
  · rcases hh : s.hostQ with _ | ⟨qh, rh⟩ <;> rcases ht : s.transportQ with _ | ⟨qt, rt⟩
    · simp [fetch, hs, hh, ht]
    · exact Or.inr (Or.inr ⟨.transport, qt, rt, ht, by simp, by simp [fetch, hs, hh, ht]⟩)
    · exact Or.inr (Or.inr ⟨.host, qh, rh, hh, by simp, by simp [fetch, hs, hh, ht]⟩)
    · cases hc : s.choice
      · exact Or.inr (Or.inr ⟨.host, qh, rh, hh, by simp, by simp [fetch, hs, hh, ht, hc]⟩)
      · exact Or.inr (Or.inr ⟨.transport, qt, rt, ht, by simp, by simp [fetch, hs, hh, ht, hc]⟩)
  · exact Or.inr (Or.inl ⟨turns, rfl, by simp [fetch, hs]⟩)

end Sys2Proof.Machine
end

