-- ==== Sys2Proof/Laws/PerInstr.lean ====
section
/-! SUPPORT. The family TableMatch: the CTRL word the encoder writes for an instruction is a word of its
row of opcode_table.json, whatever the operands and flags. -/

namespace Sys2Proof.Laws.TableMatch

/-- The encoded CTRL word matches the pattern of the instruction's opcode-table row under its mask, and the
row is one of the table's. -/
def Statement (i : Instr) : Prop :=
  (encode i).ctrl &&& i.tableRow.mask = i.tableRow.pattern ∧ i.tableRow ∈ opcodeTable

theorem idPack (nodeIn cmdIn : IdBus) : Statement (.idPack nodeIn cmdIn) :=
  ⟨(by decide : ctrlWord 0x01 false false false &&& 0xFFFF#16 = 0x0001#16),
    by simp [Instr.tableRow, opcodeTable]⟩
theorem idFromRaw (rawIn : RawBus) : Statement (.idFromRaw rawIn) :=
  ⟨(by decide : ctrlWord 0x02 false false false &&& 0xFFFF#16 = 0x0002#16),
    by simp [Instr.tableRow, opcodeTable]⟩
theorem idNode (idIn : Ident) : Statement (.idNode idIn) :=
  ⟨(by decide : ctrlWord 0x03 false false false &&& 0xFFFF#16 = 0x0003#16),
    by simp [Instr.tableRow, opcodeTable]⟩
theorem idCmd (idIn : Ident) : Statement (.idCmd idIn) :=
  ⟨(by decide : ctrlWord 0x04 false false false &&& 0xFFFF#16 = 0x0004#16),
    by simp [Instr.tableRow, opcodeTable]⟩
theorem idRaw (idIn : Ident) : Statement (.idRaw idIn) :=
  ⟨(by decide : ctrlWord 0x05 false false false &&& 0xFFFF#16 = 0x0005#16),
    by simp [Instr.tableRow, opcodeTable]⟩
theorem encEmpty : Statement .encEmpty :=
  ⟨(by decide : ctrlWord 0x06 false false false &&& 0xFFFF#16 = 0x0006#16),
    by simp [Instr.tableRow, opcodeTable]⟩
theorem decEmpty (len : LenBus) (payload : PayBus) : Statement (.decEmpty len payload) :=
  ⟨(by decide : ctrlWord 0x07 false false false &&& 0xFFFF#16 = 0x0007#16),
    by simp [Instr.tableRow, opcodeTable]⟩
theorem encBusvi (a0 a1 : FieldBus) : Statement (.encBusvi a0 a1) :=
  ⟨(by decide : ctrlWord 0x08 false false false &&& 0xFFFF#16 = 0x0008#16),
    by simp [Instr.tableRow, opcodeTable]⟩
theorem decBusvi (len : LenBus) (payload : PayBus) : Statement (.decBusvi len payload) :=
  ⟨(by decide : ctrlWord 0x09 false false false &&& 0xFFFF#16 = 0x0009#16),
    by simp [Instr.tableRow, opcodeTable]⟩
theorem encInpos (a0 a1 a2 : FieldBus) : Statement (.encInpos a0 a1 a2) :=
  ⟨(by decide : ctrlWord 0x0A false false false &&& 0xFFFF#16 = 0x000A#16),
    by simp [Instr.tableRow, opcodeTable]⟩
theorem decInpos (len : LenBus) (payload : PayBus) : Statement (.decInpos len payload) :=
  ⟨(by decide : ctrlWord 0x0B false false false &&& 0xFFFF#16 = 0x000B#16),
    by simp [Instr.tableRow, opcodeTable]⟩
theorem encHbeat (a0 a1 a2 a3 : FieldBus) : Statement (.encHbeat a0 a1 a2 a3) :=
  ⟨(by decide : ctrlWord 0x0C false false false &&& 0xFFFF#16 = 0x000C#16),
    by simp [Instr.tableRow, opcodeTable]⟩
theorem decHbeat (len : LenBus) (payload : PayBus) : Statement (.decHbeat len payload) :=
  ⟨(by decide : ctrlWord 0x0D false false false &&& 0xFFFF#16 = 0x000D#16),
    by simp [Instr.tableRow, opcodeTable]⟩
theorem encEndpt (len : LenBus) (payload : PayBus) : Statement (.encEndpt len payload) :=
  ⟨(by decide : ctrlWord 0x0E false false false &&& 0xFFFF#16 = 0x000E#16),
    by simp [Instr.tableRow, opcodeTable]⟩
theorem decEndpt (len : LenBus) (payload : PayBus) : Statement (.decEndpt len payload) :=
  ⟨(by decide : ctrlWord 0x0F false false false &&& 0xFFFF#16 = 0x000F#16),
    by simp [Instr.tableRow, opcodeTable]⟩
theorem send (e r : Bool) (nodeIn cmdIn : IdBus) (len : LenBus) (payload : PayBus) :
    Statement (.send e r nodeIn cmdIn len payload) :=
  ⟨(by cases e <;> cases r <;> decide : ctrlWord 0x10 e r false &&& 0xFF9F#16 = 0x0010#16),
    by simp [Instr.tableRow, opcodeTable]⟩
theorem recv (r x : Bool) (idIn : Ident) (len : LenBus) (payload : PayBus) :
    Statement (.recv r x idIn len payload) :=
  ⟨(by cases r <;> cases x <;> decide : ctrlWord 0x11 false r x &&& 0xFF3F#16 = 0x0011#16),
    by simp [Instr.tableRow, opcodeTable]⟩
theorem cancel (nodeIn cmdIn : IdBus) : Statement (.cancel nodeIn cmdIn) :=
  ⟨(by decide : ctrlWord 0x12 false false false &&& 0xFFFF#16 = 0x0012#16),
    by simp [Instr.tableRow, opcodeTable]⟩
theorem timeout (nodeIn cmdIn : IdBus) : Statement (.timeout nodeIn cmdIn) :=
  ⟨(by decide : ctrlWord 0x13 false false false &&& 0xFFFF#16 = 0x0013#16),
    by simp [Instr.tableRow, opcodeTable]⟩
theorem subscribe (nodeIn : IdBus) : Statement (.subscribe nodeIn) :=
  ⟨(by decide : ctrlWord 0x14 false false false &&& 0xFFFF#16 = 0x0014#16),
    by simp [Instr.tableRow, opcodeTable]⟩
theorem unsubscribe (nodeIn : IdBus) : Statement (.unsubscribe nodeIn) :=
  ⟨(by decide : ctrlWord 0x15 false false false &&& 0xFFFF#16 = 0x0015#16),
    by simp [Instr.tableRow, opcodeTable]⟩

end Sys2Proof.Laws.TableMatch

namespace Sys2Proof.Laws

/-- No CTRL word is a word of two rows of the opcode table: two rows differ in a bit both fix. -/
theorem opcodeTable_unambiguous :
    opcodeTable.Pairwise fun a b => a.pattern &&& (a.mask &&& b.mask) ≠ b.pattern &&& (a.mask &&& b.mask) := by
  decide

end Sys2Proof.Laws
end

