-- ==== Sys2Proof/Laws/Pseudo.lean ====
section
/-! SUPPORT. The payload bytes of an assembly line: what `data=` puts on the bus, said once. -/

namespace Sys2Proof.Machine

/-- Writing a list of bytes from byte `k` on: byte `j` is the list's byte `j - k`, or as before (R41, R77). -/
theorem byteAt_dataBytes (bs : List Nat) (k j : Nat) (p : PayBus) (hk : k + bs.length ≤ 8) (hj : j < 8) :
    byteAt (dataBytes bs k p) j =
      if k ≤ j ∧ j < k + bs.length then BitVec.ofNat 8 (bs.getD (j - k) 0) else byteAt p j := by
  induction bs generalizing k p with
  | nil => rw [if_neg (by simp)]; rfl
  | cons b bs ih =>
    rw [List.length_cons] at hk ⊢
    rw [dataBytes, ih (k + 1) _ (by omega), byteAt_setByte _ _ _ _ (by omega) hj]
    by_cases h1 : j = k
    · subst h1
      rw [if_neg (by omega), if_pos rfl, if_pos (by omega)]
      simp
    · by_cases h2 : k + 1 ≤ j ∧ j < k + 1 + bs.length
      · rw [if_pos h2, if_pos (by omega), show j - k = (j - (k + 1)) + 1 by omega]
        rfl
      · rw [if_neg h2, if_neg h1, if_neg (by omega)]

/-- The LEN bytes a line lists are the payload's first LEN bytes, the others 0 (R77). -/
theorem dataBytes_listBytes (p : PayBus) (n : Nat) (hn : n ≤ 8) :
    dataBytes (listBytes p n) 0 0#64 = copyBytes p n := by
  have hlen : (listBytes p n).length = n := by simp [listBytes]
  apply payload_ext
  intro j hj
  have hz : byteAt 0#64 j = 0 := byteAt_zero j
  rw [byteAt_dataBytes _ _ _ _ (by omega) hj, byteAt_copyBytes p n j hn hj, hlen, hz]
  by_cases h : j < n
  · rw [if_pos (by omega), if_pos h]
    simp [listBytes, List.getD_eq_getElem?_getD, h]
  · rw [if_neg (by omega), if_neg h]

end Sys2Proof.Machine
end

