-- ==== Sys2Proof/Tests/Slice0.lean ====
section
/-! SUPPORT. The model's own tests. Expected results come from spec/: the CTRL layout of R71, the operation
codes of R72, the vectors of 95_test_vectors.md (named in each section). Then, for every statement with
hypotheses, a witness that they can be met, clause by clause, at boundary values. -/

open Sys2Proof Sys2Proof.Machine

namespace Sys2Proof.Tests

/-- The state with these PEND and SUB bits set, nothing else different from reset. -/
def st (pend : List Ident) (sub : List NodeId) : State := { State.reset with pend := pend, sub := sub }

/-- The state with one request of the host waiting. -/
def waiting (q : Request) : State := { State.reset with hostQ := [q] }

/-- Status and the two bit arrays after an operation. -/
def outcome (i : Instr) (s : State) : Option (Status × List Ident × List NodeId) :=
  match exec i s with
  | .next t => t.response.map fun r => (r.status, t.pend, t.sub)
  | .fault _ => none
  | .refused _ => none

/-! ## WellFormed refuses an ill-formed term of each kind -/

theorem smoke_len9_decEmpty : (Instr.decEmpty 9 0).wf = false := by decide
theorem smoke_len9_decBusvi : (Instr.decBusvi 9 0).wf = false := by decide
theorem smoke_len9_decInpos : (Instr.decInpos 9 0).wf = false := by decide
theorem smoke_len9_decHbeat : (Instr.decHbeat 9 0).wf = false := by decide
theorem smoke_len9_encEndpt : (Instr.encEndpt 9 0).wf = false := by decide
theorem smoke_len9_decEndpt : (Instr.decEndpt 9 0).wf = false := by decide
theorem smoke_len9_send : (Instr.send false false 0 0 9 0).wf = false := by decide
theorem smoke_len9_recv : (Instr.recv false false 0 9 0).wf = false := by decide
theorem smoke_len8_wf : (Instr.send true true 64 32 8 0).wf = true := by decide

theorem smoke_getBusVi_missing : { gk4 with idGetBusVi := 0x18 }.getBusViOk = false := by decide
theorem smoke_setInputPos_wrong_shape : { gk4 with idSetInputPos := 0x02 }.setInputPosOk = false := by decide
theorem smoke_heartbeat_not_telemetry :
    ({ gk4 with
      table := gk4.table.set 1
        (some { name := .heartbeat, txShape := none, rxShape := .hbeat, telemetry := false }) }).heartbeatOk =
      false := by decide
theorem smoke_estop_has_payload : { gk4 with idEstop := 0x0C }.estopOk = false := by decide
theorem smoke_named_ids_equal : { gk4 with idEstop := 0x01 }.namedIdsDistinct = false := by decide
theorem smoke_endpoint_range_empty : { gk4 with epLo := 6 }.endpointRangeOk = false := by decide
theorem smoke_entry_in_range : { gk4 with epLo := 2 }.noEntryInRange = false := by decide
theorem smoke_gk4_valid : gk4.valid = true := by decide

/-! ## Decoding: every operation by a CTRL word written out from R71 and R72

Bits 15..8 reserved, then X, R, E, then OP in five bits. -/

theorem decode_idPack : decodeTableWord 16 0b00000000_000_00001 = some (.idPack 0 0) := by decide
theorem decode_idFromRaw : decodeTableWord 16 0b00000000_000_00010 = some (.idFromRaw 0) := by decide
theorem decode_idNode : decodeTableWord 16 0b00000000_000_00011 = some (.idNode 0) := by decide
theorem decode_idCmd : decodeTableWord 16 0b00000000_000_00100 = some (.idCmd 0) := by decide
theorem decode_idRaw : decodeTableWord 16 0b00000000_000_00101 = some (.idRaw 0) := by decide
theorem decode_encEmpty : decodeTableWord 16 0b00000000_000_00110 = some .encEmpty := by decide
theorem decode_decEmpty : decodeTableWord 16 0b00000000_000_00111 = some (.decEmpty 0 0) := by decide
theorem decode_encBusvi : decodeTableWord 16 0b00000000_000_01000 = some (.encBusvi 0 0) := by decide
theorem decode_decBusvi : decodeTableWord 16 0b00000000_000_01001 = some (.decBusvi 0 0) := by decide
theorem decode_encInpos : decodeTableWord 16 0b00000000_000_01010 = some (.encInpos 0 0 0) := by decide
theorem decode_decInpos : decodeTableWord 16 0b00000000_000_01011 = some (.decInpos 0 0) := by decide
theorem decode_encHbeat : decodeTableWord 16 0b00000000_000_01100 = some (.encHbeat 0 0 0 0) := by decide
theorem decode_decHbeat : decodeTableWord 16 0b00000000_000_01101 = some (.decHbeat 0 0) := by decide
theorem decode_encEndpt : decodeTableWord 16 0b00000000_000_01110 = some (.encEndpt 0 0) := by decide
theorem decode_decEndpt : decodeTableWord 16 0b00000000_000_01111 = some (.decEndpt 0 0) := by decide
theorem decode_send : decodeTableWord 16 0b00000000_000_10000 = some (.send false false 0 0 0 0) := by decide
theorem decode_send_e : decodeTableWord 16 0b00000000_001_10000 = some (.send true false 0 0 0 0) := by decide
theorem decode_send_r : decodeTableWord 16 0b00000000_010_10000 = some (.send false true 0 0 0 0) := by decide
theorem decode_recv : decodeTableWord 16 0b00000000_000_10001 = some (.recv false false 0 0 0) := by decide
theorem decode_recv_r : decodeTableWord 16 0b00000000_010_10001 = some (.recv true false 0 0 0) := by decide
theorem decode_recv_x : decodeTableWord 16 0b00000000_100_10001 = some (.recv false true 0 0 0) := by decide
theorem decode_cancel : decodeTableWord 16 0b00000000_000_10010 = some (.cancel 0 0) := by decide
theorem decode_timeout : decodeTableWord 16 0b00000000_000_10011 = some (.timeout 0 0) := by decide
theorem decode_subscribe : decodeTableWord 16 0b00000000_000_10100 = some (.subscribe 0) := by decide
theorem decode_unsubscribe : decodeTableWord 16 0b00000000_000_10101 = some (.unsubscribe 0) := by decide

/-- The illegal words of vectors L2.3, each refused under its own name. -/
theorem decode_illegal :
    [(0x0000#16, 0#4), (0x0016, 0), (0x001F, 0), (0x0101, 0), (0x0021, 0), (0x0046, 0), (0x0031, 0), (0x0090, 0),
      (0x0009, 9), (0x0030, 15)].map (fun w => decode { ctrl := w.1, len := w.2 }) =
    [.error .reservedOp, .error .reservedOp, .error .reservedOp, .error .reservedBits, .error .flagE,
      .error .flagR, .error .flagE, .error .flagX, .error .lenOver8, .error .lenOver8] := by decide

/-- Operand buses reach the operation that reads them, and no other bus matters (R75). -/
theorem decode_operands :
    decode { ctrl := 0x000C, nodeIn := 1, cmdIn := 2, rawIn := 3, idIn := 4, a0 := 5, a1 := 6, a2 := 7, a3 := 8,
             payload := 9, len := 15 } = .ok (.encHbeat 5 6 7 8) := by decide

/-! ## The request syntax: the three examples of R77 -/

theorem asm_idPack :
    (AsmLine.assemble { op := 0x01, operands := [.node 1, .cmd 15] }) =
      { ctrl := 0x0001, nodeIn := 1, cmdIn := 15 } := by decide
theorem asm_send_e :
    (AsmLine.assemble { op := 0x10, flags := [.e], operands := [.node 5, .cmd 0x17, .len 0] }) =
      { ctrl := 0x0030, nodeIn := 5, cmdIn := 0x17 } := by decide
theorem asm_recv :
    (AsmLine.assemble {
      op := 0x11
      operands := [.id 0xB7, .len 8, .data [0x00, 0x00, 0xC0, 0x41, 0x00, 0x00, 0xC0, 0x3F]] }) =
      { ctrl := 0x0011, idIn := 0x0B7, len := 8, payload := 0x3FC0000041C00000 } := by decide

/-! ## Identifier codec: vectors S1, S2, L2.1 -/

theorem test_idPack : answer (.idPack 1 15) State.reset = some { status := .ok, idOut := 0x02F } := by decide
theorem test_idPack_range : answer (.idPack 0 32) State.reset = some { status := .outOfRange } := by decide
theorem test_idFromRaw : answer (.idFromRaw 0x1234) State.reset = some { status := .ok, idOut := 0x234 } := by
  decide
theorem test_idNode : answer (.idNode 0x234) State.reset = some { status := .ok, nodeOut := 17 } := by decide
theorem test_idCmd : answer (.idCmd 0x234) State.reset = some { status := .ok, cmdOut := 20 } := by decide
theorem test_idRaw : answer (.idRaw 0x7FF) State.reset = some { status := .ok, idOut := 0x7FF } := by decide

/-! ## Marshaller: vectors S6, L2.2 -/

theorem test_encEmpty : answer .encEmpty State.reset = some { status := .ok } := by decide
theorem test_decEmpty : answer (.decEmpty 3 0x030201) State.reset = some { status := .ok, shapeOut := 1 } := by
  decide
theorem test_encBusvi :
    answer (.encBusvi 0x80000000 0x7F800000) State.reset =
      some { status := .ok, lenOut := 8, payOut := 0x7F80000080000000 } := by decide
theorem test_decBusvi :
    answer (.decBusvi 8 0x000000007FC00001) State.reset =
      some { status := .ok, shapeOut := 2, f0 := 0x7FC00001 } := by decide
theorem test_decBusvi_short :
    answer (.decBusvi 7 0x00C0000041C00000) State.reset = some { status := .malformedPayload } := by decide
theorem test_encInpos :
    answer (.encInpos 0x3F800000 0x0001FFFF 0xFFFF0000) State.reset =
      some { status := .ok, lenOut := 8, payOut := 0x0000FFFF3F800000 } := by decide
theorem test_decInpos :
    answer (.decInpos 8 0x7FFF800000000000) State.reset =
      some { status := .ok, shapeOut := 3, f1 := 0x8000, f2 := 0x7FFF } := by decide
theorem test_encHbeat :
    answer (.encHbeat 0xFFFFFFFF 0x1FF 0x100 0xAB) State.reset =
      some { status := .ok, lenOut := 7, payOut := 0x00AB00FFFFFFFFFF } := by decide
theorem test_decHbeat :
    answer (.decHbeat 8 0xEE01000812345678) State.reset =
      some { status := .ok, shapeOut := 4, f0 := 0x12345678, f1 := 8, f2 := 0, f3 := 1 } := by decide
theorem test_decHbeat_short :
    answer (.decHbeat 6 0x000812345678) State.reset = some { status := .malformedPayload } := by decide
theorem test_encEndpt :
    answer (.encEndpt 3 0xDDCCBBAA) State.reset = some { status := .ok, lenOut := 3, payOut := 0xCCBBAA } := by
  decide
theorem test_decEndpt :
    answer (.decEndpt 8 0x0807060504030201) State.reset =
      some { status := .ok, shapeOut := 5, lenOut := 8, payOut := 0x0807060504030201 } := by decide
theorem test_feedForward : sint16 0xFE0C = -500 ∧ sint16 0x8000 = -32768 ∧ sint16 0x7FFF = 32767 := by decide

/-! ## Send path: vectors L2.4 -/

theorem test_send :
    answer (.send false false 63 31 3 0xDDCCBBAA) State.reset =
      some { status := .ok, idOut := 0x7FF, txValid := true, txId := 0x7FF, txLen := 3, txData := 0xCCBBAA } := by
  decide
theorem test_send_pend :
    outcome (.send true true 5 0x17 0 0) State.reset = some (.ok, [0x0B7], []) ∧
    outcome (.send true false 5 0x17 0 0) (st [0x0B7] []) = some (.busy, [0x0B7], []) ∧
    outcome (.send false false 5 0x17 0 0) (st [0x0B7] []) = some (.ok, [0x0B7], []) ∧
    outcome (.send true false 64 0 0 0) State.reset = some (.outOfRange, [], []) := by decide

/-! ## Receive path: vectors L2.5, S4 -/

theorem test_recv_completed :
    answer (.recv false false 0x0B7 8 0x3FC0000041C00000) (st [0x0B7] []) =
      some { status := .completed, idOut := 0x0B7, nodeOut := 5, cmdOut := 0x17, shapeOut := 2, f0 := 0x41C00000,
             f1 := 0x3FC00000 } := by decide
theorem test_recv_outcomes :
    [(Instr.recv true false 0x0B7 0 0), .recv false true 0x0B7 8 0x3FC0000041C00000, .recv false false 0x0C1 7 0x010000,
      .recv false false 0x0BF 0 0, .recv false false 0x0B7 7 0xC0000041C00000, .recv false false 0x0B7 8 0,
      .recv false false 0x0A1 7 0x01000800000000, .recv false false 0x0A1 5 0, .recv false false 0x0A2 0 0,
      .recv false false 0x0A4 2 0x3412, .recv false false 0x0FE 2 0x2211].map
        (fun i => outcome i (st [0x0B7] [5])) =
    [some (.ignoredFormat, [0x0B7], [5]), some (.ignoredFormat, [0x0B7], [5]), some (.ignoredNode, [0x0B7], [5]),
      some (.unknownCommand, [0x0B7], [5]), some (.malformedPayload, [0x0B7], [5]), some (.completed, [], [5]),
      some (.unsolicited, [0x0B7], [5]), some (.malformedPayload, [0x0B7], [5]), some (.discarded, [0x0B7], [5]),
      some (.discarded, [0x0B7], [5]), some (.ignoredNode, [0x0B7], [5])] := by decide

/-! ## Lifecycle and subscriptions: vectors L2.6, L2.7 -/

theorem test_cancel :
    outcome (.cancel 2 0x17) (st [0x057] []) = some (.cancelled, [], []) ∧
    outcome (.cancel 2 0x17) State.reset = some (.notPending, [], []) := by decide
theorem test_timeout :
    outcome (.timeout 2 0x17) (st [0x057] []) = some (.timeout, [], []) ∧
    outcome (.timeout 0 40) (st [0x057] []) = some (.outOfRange, [0x057], []) := by decide
theorem test_subscribe :
    outcome (.subscribe 3) (st [] [2, 5]) = some (.ok, [], [2, 3, 5]) ∧
    outcome (.subscribe 64) State.reset = some (.outOfRange, [], []) := by decide
theorem test_unsubscribe :
    outcome (.unsubscribe 5) (st [0x0B7] [5]) = some (.ok, [0x0B7], []) ∧
    (st [0x0B7] []).active 5 = true := by decide

/-! ## The step -/

theorem test_step_illegal :
    (match step (waiting { ctrl := 0x0030, nodeIn := 5, cmdIn := 0x17, len := 15 }) with
      | .next t => (t.response, t.pend)
      | _ => (none, [])) = (some { status := .illegalRequest }, []) := by decide
theorem test_step_runs_first :
    (match step (State.reset.withFetchWord 16 0x0011) with
      | .next t => (t.response, t.served, t.client)
      | _ => (none, 0, none)) =
      (some { status := .ignoredNode }, 1, some .transport) := by decide

/-! ## Witnesses: the hypotheses of every statement can be met, clause by clause -/

theorem witness_LegalRequestIsItsEncoding :
    decode { ctrl := 0x0070, nodeIn := 63, cmdIn := 31, rawIn := 0xFFFF, len := 8 } =
      .ok (.send true true 63 31 8 0) ∧
    onlyReads (.send true true 63 31 8 0) { ctrl := 0x0070, nodeIn := 63, cmdIn := 31, rawIn := 0, len := 8 } =
      onlyReads (.send true true 63 31 8 0)
        { ctrl := 0x0070, nodeIn := 63, cmdIn := 31, rawIn := 0xFFFF, len := 8 } := by decide

theorem witness_AssembledLineActsTheSame : (Instr.recv true true 0x7FF 8 0xFFFFFFFFFFFFFFFF).wf = true := by decide

/-- One taken request for each way to be illegal, at the boundary, and three legal ones. -/
theorem witness_IllegalRequestAnsweredFirst :
    (∀ q : Request, fetch (waiting q) = .request q ((waiting q).take .host [])) ∧
    (0x0000#16).toNat % 32 = 0 ∧ 0x16 ≤ (0x0016#16).toNat % 32 ∧ (0x0101#16).toNat / 256 ≠ 0 ∧
    ((0x0031#16).toNat / 32 % 2 = 1 ∧ (0x0031#16).toNat % 32 ≠ 0x10) ∧
    ((0x0046#16).toNat / 64 % 2 = 1 ∧ (0x0046#16).toNat % 32 ≠ 0x10 ∧ (0x0046#16).toNat % 32 ≠ 0x11) ∧
    ((0x0090#16).toNat / 128 % 2 = 1 ∧ (0x0090#16).toNat % 32 ≠ 0x11) ∧
    ((0x0007#16).toNat % 32 ∈ [0x07, 0x09, 0x0B, 0x0D, 0x0E, 0x0F, 0x10, 0x11] ∧ 8 < (9#4).toNat) ∧
    [(0x0007#16, 8#4), (0x0070, 8), (0x00D1, 8), (0x0015, 15)].all (fun w =>
      match decode { ctrl := w.1, len := w.2 } with
      | .ok _ => true
      | .error _ => false) = true := by
  refine ⟨fun q => rfl, ?_⟩
  decide

/-- The four ways the port chooses, each with a request that decodes. -/
theorem witness_StepRunsDecodedRequest :
    decode { ctrl := 0x0015, nodeIn := 63 } = .ok (.unsubscribe 63) ∧
    (∃ s : State, s.schedule = [.grant .transport] ∧ s.queue .transport = [{ ctrl := 0x0015, nodeIn := 63 }]) ∧
    (∃ s : State, s.schedule = [.grant .transport] ∧ s.queue .transport = [] ∧
      s.queue .host = [{ ctrl := 0x0015, nodeIn := 63 }]) ∧
    (∃ s : State, s.schedule = [] ∧ s.queue .transport = [] ∧
      s.queue .host = [{ ctrl := 0x0015, nodeIn := 63 }]) ∧
    (∃ s : State, s.schedule = [] ∧
      s.queue (Config.arb s.served) = [{ ctrl := 0x0015, nodeIn := 63 }]) := by
  refine ⟨by decide, ⟨{ State.reset with schedule := [.grant .transport],
                                         transportQ := [{ ctrl := 0x0015, nodeIn := 63 }] }, rfl, rfl⟩,
    ⟨{ waiting { ctrl := 0x0015, nodeIn := 63 } with schedule := [.grant .transport] }, rfl, rfl, rfl⟩,
    ⟨waiting { ctrl := 0x0015, nodeIn := 63 }, rfl, rfl, rfl⟩,
    ⟨{ State.reset with hostQ := [{ ctrl := 0x0015, nodeIn := 63 }],
                        transportQ := [{ ctrl := 0x0015, nodeIn := 63 }] }, rfl, ?_⟩⟩
  cases Config.arb _ <;> rfl

theorem witness_FetchWordRunsNext : decodeTableWord 16 0x0070 = some (.send true true 0 0 0 0) := by decide

/-- A step that serves nothing, one that serves the host, one that serves the transport. -/
theorem witness_ServiceKeepsEachAgentsOrder :
    (∃ t, step State.reset = .next t) ∧
    (∃ t, step (waiting { ctrl := 0x0005 }) = .next t ∧ (waiting { ctrl := 0x0005 }).hostQ = { ctrl := 0x0005 } :: t.hostQ) ∧
    (∃ t, step { State.reset with transportQ := [{ ctrl := 0x0011 }] } = .next t ∧
      t.client = some .transport) :=
  ⟨⟨_, rfl⟩, ⟨_, rfl, rfl⟩, ⟨_, rfl, rfl⟩⟩

/-- Node and command operands on both sides of their limits (also for CodecLaws, SendEmitsFrameAndOpensRequest,
CancelAndTimeoutEndRequest and SubscriptionsSetAndClearOneBit). -/
theorem witness_IdPackPacksOrRejects :
    ((63#8).toNat < 64 ∧ (31#8).toNat < 32) ∧ 64 ≤ (64#8).toNat ∧ 32 ≤ (32#8).toNat := by decide

theorem witness_CodecLaws :
    ((63#8).toNat < 64 ∧ (31#8).toNat < 32) ∧ 64 ≤ (255#8).toNat ∧ 32 ≤ (255#8).toNat ∧
    (0x7FF#16).toNat < 2048 := by decide

theorem witness_PayloadReadAfterWrite :
    4 + 4 ≤ 8 ∧ 0xFFFFFFFF < 2 ^ (8 * 4) ∧ (3 < 8 ∧ 3 < 4) ∧ 3 < 4 := by decide

theorem witness_DecodersExtractFields :
    (8#4).toNat ≤ 8 ∧ 8 < (9#4).toNat ∧ (7#4).toNat < 8 ∧ (6#4).toNat < 7 ∧ (0#4).toNat ≤ 8 ∧
    (8#4).toNat = 8 ∧ 7 ≤ (7#4).toNat := by decide

theorem witness_EndpointPayloadIsRaw : (8#4).toNat ≤ 8 ∧ 8 < (9#4).toNat := by decide

theorem witness_EncodeThenDecodeGivesOperands : (8#4).toNat ≤ 8 ∧ (0#4).toNat ≤ 8 := by decide

theorem witness_DecodeThenEncodeGivesBytes :
    (8#4).toNat ≤ 8 ∧ 8 ≤ (8#4).toNat ∧ (7#4).toNat ≤ 8 ∧ 7 ≤ (7#4).toNat := by decide

/-- Two payloads that differ at byte 3 and agree on the first three bytes. -/
theorem witness_BytesBeyondLenAreNeverRead :
    (∀ j < (3#4).toNat, byteAt 0xDDCCBBAA j = byteAt 0x00CCBBAA j) ∧ (0xDDCCBBAA : PayBus) ≠ 0x00CCBBAA := by decide

theorem witness_CodecAndMarshallerAreStateless :
    stateless (.decHbeat 6 0) = true ∧ ∃ t, exec (.decHbeat 6 0) State.reset = .next t :=
  ⟨rfl, _, rfl⟩

theorem witness_SendEmitsFrameAndOpensRequest :
    (8#4).toNat ≤ 8 ∧ 8 < (9#4).toNat ∧ (63#8).toNat < 64 ∧ (31#8).toNat < 32 ∧ 64 ≤ (64#8).toNat ∧
    32 ≤ (32#8).toNat ∧ (st [0x7FF] []).pendAt (BitVec.ofNat 11 (32 * 63 + 31)) = true ∧
    State.reset.pendAt (BitVec.ofNat 11 (32 * 63 + 31)) = false := by decide

theorem witness_SecondSendOfPendingPairIsBusy :
    ∃ t d, exec (.send true false 63 31 8 0) State.reset = .next t ∧ t.response = some d ∧ d.status = .ok ∧
      (8#4).toNat ≤ 8 :=
  ⟨_, _, rfl, rfl, rfl, by decide⟩

theorem witness_OnlySendEmitsFrames :
    ∃ d f, answer (.send false true 63 31 8 1) State.reset = some d ∧ d.txFrame = some f :=
  ⟨_, _, rfl, rfl⟩

theorem witness_CommandSendEmitsEncodedPayload :
    (63#8).toNat < 64 ∧ (31#8).toNat < 32 ∧
    State.reset.pendAt (BitVec.ofNat 11 (32 * (63#8).toNat + (31#8).toNat)) = false := by decide

theorem witness_RecvIgnoresOtherFormats : (8#4).toNat ≤ 8 ∧ 8 < (9#4).toNat := by decide

/-- Node 6 beside an active node 5. -/
theorem witness_RecvIgnoresInactiveNodes :
    (8#4).toNat ≤ 8 ∧ (st [0x0B7] [5]).subAt (BitVec.ofNat 6 ((0x0C1#11).toNat / 32)) = false ∧
    ∀ j : Ident, j.toNat / 32 = (0x0C1#11).toNat / 32 → (st [0x0B7] [5]).pendAt j = false := by
  refine ⟨by decide, by decide, fun j hj => ?_⟩
  simp only [st, State.pendAt, BitArray.read]
  have : j ≠ 0x0B7 := by
    rintro rfl
    exact absurd hj (by decide)
  simpa using this

/-- Command 0x1F of node 5, whose own pair is pending. -/
theorem witness_RecvReportsUnknownCommand :
    (8#4).toNat ≤ 8 ∧ (st [0x0BF] [5]).subAt (nodeOf 0x0BF) = true ∧ (st [0x0BF] [5]).pendAt 0x0BF = true ∧
    lookup gk4 (cmdOf 0x0BF) = none ∧ gk4.epHi.toNat < (cmdOf 0x0BF).toNat ∧
    lookup gk4 (cmdOf 0x0A3) = none ∧ (cmdOf 0x0A3).toNat < gk4.epLo.toNat := by decide

theorem witness_RecvReportsMalformedPayload :
    (7#4).toNat ≤ 8 ∧ (st [0x0B7] []).pendAt 0x0B7 = true ∧
    (∃ entry, lookup gk4 (cmdOf 0x0B7) = some entry ∧ (7#4).toNat < shapeLen entry.rxShape) ∧
    lookup gk4 (cmdOf 0x0A4) = none ∧ gk4.epLo.toNat ≤ (cmdOf 0x0A4).toNat ∧
    (cmdOf 0x0A5).toNat ≤ gk4.epHi.toNat :=
  ⟨by decide, by decide, ⟨_, rfl, by decide⟩, by decide, by decide, by decide⟩

/-- A fixed command at its exact length, and the two ends of the endpoint range. -/
theorem witness_RecvCompletesPendingRequest :
    (7#4).toNat ≤ 8 ∧ (st [0x0A1] []).pendAt 0x0A1 = true ∧
    (∃ entry, lookup gk4 (cmdOf 0x0A1) = some entry ∧ shapeLen entry.rxShape ≤ (7#4).toNat) ∧
    (st [0x0A4] []).pendAt 0x0A4 = true ∧ lookup gk4 (cmdOf 0x0A4) = none ∧
    gk4.epLo.toNat ≤ (cmdOf 0x0A4).toNat ∧ (cmdOf 0x0A4).toNat ≤ gk4.epHi.toNat :=
  ⟨by decide, by decide, ⟨_, rfl, by decide⟩, by decide, by decide, by decide, by decide⟩

/-- Active by a subscription, and active by another command's pending request. -/
theorem witness_RecvReportsUnrequestedFrames :
    (7#4).toNat ≤ 8 ∧ (st [0x0B7] []).pendAt 0x0A1 = false ∧
    (∃ j, nodeOf j = nodeOf 0x0A1 ∧ (st [0x0B7] []).pendAt j = true) ∧
    (st [] [5]).pendAt 0x0A5 = false ∧ (st [] [5]).subAt (nodeOf 0x0A5) = true ∧
    (∃ entry, lookup gk4 (cmdOf 0x0A1) = some entry ∧ shapeLen entry.rxShape ≤ (7#4).toNat) ∧
    lookup gk4 (cmdOf 0x0A5) = none ∧ gk4.epLo.toNat ≤ (cmdOf 0x0A5).toNat ∧
    (cmdOf 0x0A5).toNat ≤ gk4.epHi.toNat :=
  ⟨by decide, by decide, ⟨0x0B7, by decide, by decide⟩, by decide, by decide, ⟨_, rfl, by decide⟩, by decide,
    by decide, by decide⟩

/-- A decoded frame; an entry with a tx_shape, one without, an endpoint id. -/
theorem witness_CommandsUseTheirShapes :
    (∃ d, answer (.recv false false 0x0A2 0 0) (st [] [5]) = some d ∧
      d.status ∈ [Status.completed, .unsolicited, .discarded]) ∧
    (∃ entry, lookup gk4 0x0C = some entry ∧ entry.txShape = some .inpos) ∧
    (∃ entry, lookup gk4 0x01 = some entry ∧ entry.txShape = none) ∧
    (lookup gk4 0x05 = none ∧ gk4.epLo.toNat ≤ (0x05#5).toNat ∧ (0x05#5).toNat ≤ gk4.epHi.toNat) :=
  ⟨⟨_, rfl, by decide⟩, ⟨_, rfl, rfl⟩, ⟨_, rfl, rfl⟩, by decide⟩

/-- The same reply twice: it completes the request, then is ignored. -/
theorem witness_DuplicateReplyNeverCompletesAgain :
    ∃ t u d d', exec (.recv false false 0x0B7 8 5) (st [0x0B7] []) = .next t ∧ t.response = some d ∧
      d.status = .completed ∧ exec (.recv false false 0x0B7 8 5) t = .next u ∧ u.response = some d' :=
  ⟨_, _, _, _, rfl, rfl, rfl, rfl, rfl⟩

/-- Two states with different other pairs pending. -/
theorem witness_PairsAreIndependent :
    (st [0x0A1, 0x0B7] []).pendAt 0x0B7 = (st [0x0B7, 0x7FF] [5]).pendAt 0x0B7 ∧
    (st [0x0A1, 0x0B7] []).cfg = (st [0x0B7, 0x7FF] [5]).cfg ∧
    (st [0x0A1, 0x0B7] []).active (nodeOf 0x0B7) = (st [0x0B7, 0x7FF] [5]).active (nodeOf 0x0B7) ∧
    (0x0B7#11).toNat = 32 * (5#8).toNat + (0x17#8).toNat ∧ (0x17#8).toNat < 32 := by decide

theorem witness_NoNodeIsActiveAfterReset : (8#4).toNat ≤ 8 := by decide

theorem witness_CancelAndTimeoutEndRequest :
    ((63#8).toNat < 64 ∧ (31#8).toNat < 32) ∧ 64 ≤ (64#8).toNat ∧ 32 ≤ (32#8).toNat ∧
    (st [0x7FF] []).pendAt (BitVec.ofNat 11 (32 * 63 + 31)) = true ∧
    State.reset.pendAt (BitVec.ofNat 11 (32 * 63 + 31)) = false := by decide

theorem witness_EndedRequestReleasesItsSlot :
    (∃ t d, exec (.cancel 2 0x17) (st [0x057] []) = .next t ∧ t.response = some d ∧ d.status ≠ .outOfRange) ∧
    (∃ t d, exec (.timeout 2 0x17) (st [0x057] []) = .next t ∧ t.response = some d ∧ d.status ≠ .outOfRange) ∧
    (8#4).toNat ≤ 8 :=
  ⟨⟨_, _, rfl, rfl, by decide⟩, ⟨_, _, rfl, rfl, by decide⟩, by decide⟩

/-- Program P5 of the spec: timeout, a new request, the late reply; and the same of an endpoint command. -/
theorem witness_LateReplyCompletesOnlyNewerRequest :
    (∃ t u d e entry, exec (.timeout 2 0x17) (st [0x057] []) = .next t ∧ t.response = some d ∧
      d.status = .timeout ∧ lookup gk4 (cmdOf (BitVec.ofNat 11 (32 * 2 + 0x17))) = some entry ∧
      shapeLen entry.rxShape ≤ (8#4).toNat ∧ (8#4).toNat ≤ 8 ∧
      exec (.send true false 2 0x17 0 0) t = .next u ∧ u.response = some e ∧ e.status = .ok) ∧
    (∃ t u d e, exec (.cancel 2 0x05) (st [0x045] []) = .next t ∧ t.response = some d ∧ d.status = .cancelled ∧
      lookup gk4 (cmdOf (BitVec.ofNat 11 (32 * 2 + 0x05))) = none ∧
      (gk4.epLo.toNat ≤ (cmdOf (BitVec.ofNat 11 (32 * 2 + 0x05))).toNat ∧
        (cmdOf (BitVec.ofNat 11 (32 * 2 + 0x05))).toNat ≤ gk4.epHi.toNat) ∧
      exec (.send true true 2 0x05 8 1) t = .next u ∧ u.response = some e ∧ e.status = .ok) :=
  ⟨⟨_, _, _, _, _, rfl, rfl, rfl, rfl, by decide, by decide, rfl, rfl, rfl⟩,
    ⟨_, _, _, _, rfl, rfl, rfl, rfl, by decide, rfl, rfl, rfl⟩⟩

/-- A pending unknown command, and a pending bus-voltage request with a short reply. -/
theorem witness_UndecodableFramesNeverEndRequest :
    (∃ t, exec (.recv false false 0x0B7 7 0) (st [0x0B7, 0x0BF] []) = .next t) ∧
    classify gk4 (cmdOf 0x0BF) = .unknown ∧
    ∃ entry, lookup gk4 (cmdOf 0x0B7) = some entry ∧ (7#4).toNat < shapeLen entry.rxShape :=
  ⟨⟨_, rfl⟩, by decide, ⟨_, rfl, by decide⟩⟩

theorem witness_SubscriptionsSetAndClearOneBit : (63#8).toNat < 64 ∧ 64 ≤ (64#8).toNat := by decide

theorem witness_NodeActivity :
    (63#8).toNat < 64 ∧ (∃ t, exec (.subscribe 63) State.reset = .next t) ∧
    ∃ u, exec (.unsubscribe 63) State.reset = .next u :=
  ⟨by decide, ⟨_, rfl⟩, ⟨_, rfl⟩⟩

theorem witness_StatusCodesAndReporters : ∃ r, answer (.cancel 64 0) State.reset = some r := ⟨_, rfl⟩

theorem witness_OnlyListedResponseFieldsAreSet :
    ∃ r, answer (.recv false false 0x0A4 8 0xFFFFFFFFFFFFFFFF) (st [0x0A4] []) = some r := ⟨_, rfl⟩

/-- A step of each kind that writes PEND or SUB: the bit named does change. -/
theorem witness_OperationFrames :
    (∃ t, exec (.send true false 63 31 0 0) State.reset = .next t ∧ t.pendAt 0x7FF ≠ State.reset.pendAt 0x7FF) ∧
    (∃ t, exec (.recv false false 0x0B7 8 0) (st [0x0B7] []) = .next t ∧
      t.pendAt 0x0B7 ≠ (st [0x0B7] []).pendAt 0x0B7) ∧
    (∃ t, exec (.unsubscribe 63) (st [] [63]) = .next t ∧ t.subAt 63 ≠ (st [] [63]).subAt 63) :=
  ⟨⟨_, rfl, by decide⟩, ⟨_, rfl, by decide⟩, ⟨_, rfl, by decide⟩⟩

/-- A bit set, and a bit cleared with each terminal status. -/
theorem witness_PendingBitLifecycle :
    (∃ t d, exec (.send true false 2 0x17 0 0) State.reset = .next t ∧ t.response = some d ∧
      State.reset.pendAt 0x057 = false ∧ t.pendAt 0x057 = true) ∧
    (∃ t d, exec (.recv false false 0x057 8 0) (st [0x057] []) = .next t ∧ t.response = some d ∧
      (st [0x057] []).pendAt 0x057 = true ∧ t.pendAt 0x057 = false ∧ d.status = .completed) ∧
    (∃ t d, exec (.cancel 2 0x17) (st [0x057] []) = .next t ∧ t.response = some d ∧ d.status = .cancelled) ∧
    (∃ t d, exec (.timeout 2 0x17) (st [0x057] []) = .next t ∧ t.response = some d ∧ d.status = .timeout) :=
  ⟨⟨_, _, rfl, rfl, by decide, by decide⟩, ⟨_, _, rfl, rfl, by decide, by decide, rfl⟩, ⟨_, _, rfl, rfl, rfl⟩,
    ⟨_, _, rfl, rfl, rfl⟩⟩

/-- A run of two steps with no reset, that opens and closes a request. -/
theorem witness_EachRequestEndsExactlyOnce :
    let s : State := { waiting { ctrl := 0x0030, nodeIn := 2, cmdIn := 0x17 } with
      transportQ := [{ ctrl := 0x0013, nodeIn := 2, cmdIn := 0x17 }]
      schedule := [.grant .host, .grant .transport] }
    (∀ turn ∈ s.schedule, turn ≠ .reset) ∧ countAlong (opensAt 0x057) 2 s = 1 ∧
      countAlong (closesAt 0x057) 2 s = 1 := by decide

theorem witness_ErrorOutcomesWriteNoState :
    ∃ t d, exec (.send true false 2 0x17 0 0) (st [0x057] []) = .next t ∧ t.response = some d ∧
      d.status ∈ [Status.outOfRange, .malformedPayload, .unknownCommand, .busy, .illegalRequest, .ignoredNode,
        .ignoredFormat, .notPending, .unsolicited, .discarded] :=
  ⟨_, _, rfl, rfl, by decide⟩

/-- A sound state that no reset leaves, from which a step is taken. -/
theorem witness_StepKeepsSoundState :
    (st [0x057, 0x7FF] [0, 63]).Inv ∧ ∃ t, step (st [0x057, 0x7FF] [0, 63]) = .next t :=
  ⟨⟨by decide, by decide, by decide, by simp [st, State.reset]⟩, _, rfl⟩

theorem witness_ResetTurnClearsTheBlock :
    ∃ (s : State) (turns : List Turn), s.schedule = .reset :: turns ∧ s.pend ≠ [] ∧ s.hostQ ≠ [] :=
  ⟨{ waiting { ctrl := 0x0005 } with schedule := [.reset], pend := [0x057] }, [], rfl, by decide, by decide⟩

theorem witness_BlockNeverActsUnprompted :
    State.reset.hostQ = [] ∧ State.reset.transportQ = [] ∧ ∀ turns, State.reset.schedule ≠ .reset :: turns := by
  refine ⟨rfl, rfl, fun turns h => ?_⟩
  cases h

/-- A command of each class under a valid configuration. -/
theorem witness_CommandClassesAreDisjoint :
    gk4.valid = true ∧ lookup gk4 0x17 ≠ none ∧ classify gk4 0x04 = .endpoint ∧ classify gk4 0x1F = .unknown := by
  decide

theorem witness_DefaultConfigurationIsValid : gk4.valid = true := by decide

end Sys2Proof.Tests
end

section
/-! Proofs of the scope statements (00_scope.md): R13, no operation reads a payload byte at index LEN or
above, and R9 with GK4. For R13: every use of a payload is one of two, a copy of its first LEN bytes or a
decode of a fixed shape that fits in LEN bytes, and both look at those bytes only. -/

namespace Sys2Proof.Machine

/-! ## What reads a payload looks at its first bytes only (R13) -/

/-- A copy of the first `n` bytes looks at those bytes only (R125, R126, R130). -/
theorem copyBytes_congr {p q : PayBus} {n : Nat} (h : ∀ j < n, byteAt p j = byteAt q j) :
    copyBytes p n = copyBytes q n := by
  induction n with
  | zero => rfl
  | succ n ih => rw [copyBytes, copyBytes, ih fun j hj => h j (by omega), h n n.lt_succ_self]

/-- Every field of a shape ends within the shape's length (R61, R66). -/
theorem shapeFields_end_le (S : FixedShape) : ∀ f ∈ shapeFields S, f.off + f.width ≤ shapeLen S := by
  cases S <;> decide

/-- Fields that end within the first `n` bytes are read from those bytes only (R111). -/
theorem readFields_congr {p q : PayBus} {n : Nat} (h : ∀ j < n, byteAt p j = byteAt q j)
    (fs : List FieldSpec) (hfs : ∀ f ∈ fs, f.off + f.width ≤ n) (r : Fields) :
    readFields p fs r = readFields q fs r := by
  induction fs generalizing r with
  | nil => rfl
  | cons f fs ih =>
    have hend : f.off + f.width ≤ n := hfs f List.mem_cons_self
    have hread : payRead p f.off f.width = payRead q f.off f.width :=
      payRead_congr p q f.off f.width fun k hk => h (f.off + k) (by omega)
    rw [readFields, readFields, hread, ih fun g hg => hfs g (List.mem_cons_of_mem f hg)]

section
variable {len : LenBus} {p q : PayBus} (h : ∀ j < len.toNat, byteAt p j = byteAt q j)
include h

/-- A decode that the length test lets through looks at the first LEN bytes only (R111, R112). -/
theorem decodeFixedInto_congr {S : FixedShape} (hlen : tooShort S len = false) (r : Response) :
    decodeFixedInto S p r = decodeFixedInto S q r := by
  have hfit : shapeLen S ≤ len.toNat := by simpa [tooShort] using hlen
  have hshape : decodeShape S p = decodeShape S q :=
    readFields_congr h (shapeFields S) (fun f hf => (shapeFields_end_le S f hf).trans hfit) {}
  rw [decodeFixedInto, decodeFixedInto, hshape]

theorem decodeEndptInto_congr (r : Response) : decodeEndptInto len p r = decodeEndptInto len q r := by
  rw [decodeEndptInto, decodeEndptInto, copyBytes_congr h]

theorem emitInto_congr (i : Ident) (rtr : Bool) (r : Response) :
    emitInto i rtr len p r = emitInto i rtr len q r := by
  rw [emitInto, emitInto, copyBytes_congr h]

/-! ## The operations that read a payload -/

theorem decodeFixed_congr (S : FixedShape) (s : State) : decodeFixed S len p s = decodeFixed S len q s := by
  cases hlen : tooShort S len with
  | true => simp only [decodeFixed, hlen, if_true]
  | false => simp only [decodeFixed, decodeFixedInto_congr h hlen]

theorem execEncEndpt_congr (s : State) : execEncEndpt len p s = execEncEndpt len q s := by
  rw [execEncEndpt, execEncEndpt, copyBytes_congr h]

theorem execDecEndpt_congr (s : State) : execDecEndpt len p s = execDecEndpt len q s := by
  rw [execDecEndpt, execDecEndpt, decodeEndptInto_congr h]

theorem execSend_congr (e r : Bool) (n c : IdBus) (s : State) :
    execSend e r n c len p s = execSend e r n c len q s := by
  simp only [execSend, emitInto_congr h]

/-- RECV reads the payload only where it decodes it: raw for an endpoint command, after the length test for
a command of the table (R135). -/
theorem execRecv_congr (r x : Bool) (i : Ident) (s : State) :
    execRecv r x i len p s = execRecv r x i len q s := by
  cases hclass : classify s.cfg (cmdOf i) with
  | unknown => simp only [execRecv, hclass]
  | endpoint => simp only [execRecv, hclass, decodeEndptInto_congr h]
  | fixed entry =>
    cases hlen : tooShort entry.rxShape len with
    | true => simp only [execRecv, hclass, hlen, if_true]
    | false => simp only [execRecv, hclass, decodeFixedInto_congr h hlen]

end

/-- Settles O20: each operation reads its payload through a copy of LEN bytes or a decode that fits in LEN
bytes. -/
theorem bytesBeyondLenAreNeverRead : Obligations.BytesBeyondLenAreNeverRead := by
  intro len p q s h
  exact ⟨decodeFixed_congr h .empty s, decodeFixed_congr h .busvi s, decodeFixed_congr h .inpos s,
    decodeFixed_congr h .hbeat s, execEncEndpt_congr h s, execDecEndpt_congr h s,
    fun e r n c => execSend_congr h e r n c s, fun r x i => execRecv_congr h r x i s⟩

end Sys2Proof.Machine
end

section
/-! What R9 gives of a configuration, said once, and the statement about GK4. -/

namespace Sys2Proof.Machine

/-- R9, clause by clause. -/
theorem valid_iff (cfg : CmdConfig) :
    cfg.valid = true ↔
      cfg.getBusViOk = true ∧ cfg.setInputPosOk = true ∧ cfg.heartbeatOk = true ∧ cfg.estopOk = true ∧
        cfg.namedIdsDistinct = true ∧ cfg.endpointRangeOk = true ∧ cfg.noEntryInRange = true := by
  simp only [CmdConfig.valid, Bool.and_eq_true, and_assoc]

theorem hasShapes_iff (cfg : CmdConfig) (c : CmdId) (tx : Option FixedShape) (rx : FixedShape) :
    cfg.hasShapes c tx rx = true ↔
      ∃ entry, lookup cfg c = some entry ∧ entry.txShape = tx ∧ entry.rxShape = rx := by
  unfold CmdConfig.hasShapes
  cases lookup cfg c <;> simp

/-- R9(c): the heartbeat is a table entry with tx_shape NONE, rx_shape HBEAT and the telemetry flag. -/
theorem heartbeatOk_iff (cfg : CmdConfig) :
    cfg.heartbeatOk = true ↔
      ∃ entry, lookup cfg cfg.idHeartbeat = some entry ∧ entry.rxShape = .hbeat ∧
        entry.telemetry = true ∧ entry.txShape = none := by
  rw [CmdConfig.heartbeatOk, Bool.and_eq_true, hasShapes_iff]
  cases lookup cfg cfg.idHeartbeat with
  | none => simp
  | some entry =>
    simp only [Option.some.injEq, exists_eq_left']
    tauto

/-- Settles O56: GK4 by evaluation, and R9(c) is a clause of R9. -/
theorem defaultConfigurationIsValid : Obligations.DefaultConfigurationIsValid := by
  refine ⟨by decide, fun cfg hvalid => ?_⟩
  obtain ⟨-, -, hheartbeat, -⟩ := (valid_iff cfg).mp hvalid
  exact (heartbeatOk_iff cfg).mp hheartbeat

end Sys2Proof.Machine
end

section
/-! What one step of the machine can do, said once, and the statements about the port: which request a step
serves (O6, O7), and the configuration along a run (O53). -/

namespace Sys2Proof.Machine

/-! ## The request the port takes -/

/-- The agent ARB chooses is served when it waits, whether or not the other one waits too (R172). -/
theorem fetch_choice {s : State} {q : Request} {rest : List Request}
    (hs : ∀ turns, s.schedule ≠ .reset :: turns) (hq : s.queue s.choice = q :: rest) :
    fetch s = .request q (s.take s.choice rest) := by
  unfold fetch
  split
  · next turns hreset => exact absurd hreset (hs turns)
  · cases hc : s.choice <;> rw [hc] at hq <;> simp only [State.queue] at hq
    · cases ht : s.transportQ <;> simp [hq]
    · cases hh : s.hostQ <;> simp [hq]

/-- An agent that waits alone is served, whichever agent the turn names (R172, log entry 6). -/
theorem fetch_only_waiting {s : State} {a b : Agent} {q : Request} {rest : List Request}
    (hs : ∀ turns, s.schedule ≠ .reset :: turns) (hab : a ≠ b) (hb : s.queue b = [])
    (ha : s.queue a = q :: rest) : fetch s = .request q (s.take a rest) := by
  unfold fetch
  split
  · next turns hreset => exact absurd hreset (hs turns)
  · cases a <;> cases b <;> simp_all [State.queue]

/-! ## The step -/

/-- A request that decodes runs its instruction on the state the port left (R12, R21). -/
theorem step_of_decode {s t : State} {q : Request} {i : Instr} (hf : fetch s = .request q t)
    (hd : decode q = .ok i) : step s = exec i t := by
  simp only [step, hf, hd]

/-- All a step can do: spend a turn, reset the block, answer ILLEGAL_REQUEST, or run one instruction on the
state with its request taken (R12, R74, R171, R180). -/
theorem step_cases (s : State) :
    step s = .next { s with schedule := s.schedule.tail } ∨
    (∃ turns, s.schedule = .reset :: turns ∧
      step s = .next ({ s with schedule := turns } : State).resetBlock) ∨
    ∃ a q rest, s.queue a = q :: rest ∧ (∀ turns, s.schedule ≠ .reset :: turns) ∧
      (step s = .next ((s.take a rest).respond { status := .illegalRequest }) ∨
        ∃ i, decode q = .ok i ∧ step s = exec i (s.take a rest)) := by
  rcases fetch_cases s with ⟨-, -, -, hf⟩ | ⟨turns, hs, hf⟩ | ⟨a, q, rest, hq, hs, hf⟩
  · exact Or.inl (by simp only [step, hf])
  · exact Or.inr (Or.inl ⟨turns, hs, by simp only [step, hf]⟩)
  · refine Or.inr (Or.inr ⟨a, q, rest, hq, hs, ?_⟩)
    cases hd : decode q with
    | error e => exact Or.inl (by simp only [step, hf, hd, raise_eq])
    | ok i => exact Or.inr ⟨i, rfl, step_of_decode hf hd⟩

/-- Settles O6: in each case the port takes that request, and the state it leaves is the one written. -/
theorem stepRunsDecodedRequest : Obligations.StepRunsDecodedRequest := by
  intro s q i a b rest turns hd
  refine ⟨fun hs hq => ?_, fun hs hab ha hb => ?_, fun hs hab ha hb => ?_, fun hs hq => ?_⟩
  · rw [step_of_decode (fetch_granted s a q rest turns hs hq) hd, State.take, hs, List.tail_cons]
  · rw [step_of_decode (fetch_only_waiting (by simp [hs]) hab.symm ha hb) hd, State.take, hs, List.tail_cons]
  · rw [step_of_decode (fetch_only_waiting (by simp [hs]) hab hb ha) hd]
    cases a <;> simp [State.take, State.setQueue, hs]
  · have hc : s.choice = Config.arb s.served := by simp [State.choice, hs]
    rw [← hc] at hq ⊢
    rw [step_of_decode (fetch_choice (by simp [hs]) hq) hd]
    cases s.choice <;> simp [State.take, State.setQueue, hs]

/-- Taking the request just presented first leaves the state as it was before the presenting, but for the
count and the answered agent (log entry 4). -/
theorem take_presentFirst (s : State) (q : Request) :
    (s.presentFirst q).take (issuer q) (s.queue (issuer q)) =
      { s with served := s.served + 1, client := some (issuer q) } := by
  unfold State.presentFirst
  cases issuer q <;> rfl

/-- The request presented first is the next one the port takes (log entry 16). -/
theorem fetch_presentFirst (s : State) (q : Request) :
    fetch (s.presentFirst q) =
      .request q { s with served := s.served + 1, client := some (issuer q) } := by
  have hq : (s.presentFirst q).queue (issuer q) = q :: s.queue (issuer q) := by
    unfold State.presentFirst
    cases issuer q <;> rfl
  rw [fetch_granted _ _ _ _ s.schedule rfl hq, take_presentFirst]

theorem decode_of_decodeTableWord {nbits w : Nat} {i : Instr} (h : decodeTableWord nbits w = some i) :
    decode (requestOfWord nbits w) = .ok i := by
  unfold decodeTableWord at h
  split at h
  · next j hj =>
      cases h
      exact hj
  · cases h

/-- Settles O7: the word's request is the next one taken, and taking it undoes the presenting. -/
theorem fetchWordRunsNext : Obligations.FetchWordRunsNext := fun s nbits w _ h =>
  step_of_decode (fetch_presentFirst s (requestOfWord nbits w)) (decode_of_decodeTableWord h)

/-! ## The configuration -/

/-- No operation writes the configuration (R27). -/
theorem exec_cfg {i : Instr} {s t : State} (h : exec i s = .next t) : t.cfg = s.cfg := by
  obtain ⟨p, q, d, he⟩ := exec_shape i s
  cases he.symm.trans h
  rfl

/-- No step writes the configuration, a reset among them (R27). -/
theorem step_cfg {s t : State} (h : step s = .next t) : t.cfg = s.cfg := by
  rcases step_cases s with hs | ⟨turns, -, hs⟩ | ⟨a, q, rest, -, -, hs | ⟨i, -, hs⟩⟩
  · cases hs.symm.trans h
    rfl
  · cases hs.symm.trans h
    rfl
  · cases hs.symm.trans h
    simp
  · rw [exec_cfg (hs.symm.trans h), State.take_cfg]

/-- Settles O53, by induction on the number of steps. -/
theorem configurationNeverChanges : Obligations.ConfigurationNeverChanges := by
  intro k
  induction k with
  | zero => exact fun _ => rfl
  | succ k ih =>
    intro s
    unfold after
    split
    · next t ht => rw [ih t, step_cfg ht]
    · rfl
    · rfl

end Sys2Proof.Machine
end

section
/-! The invariant of the machine (10_state.md section 4): every response an operation answers is sound, both
writes of PEND and SUB keep the canonical form, and so every step keeps `State.Inv` (O49), which the reset
state meets (O50, O51). -/

namespace Sys2Proof.Machine

/-! ## Sound responses without a frame -/

/-- A response that hands no frame to the transport, with the clauses of `Response.Sound` that do not look at
its status. -/
structure Response.Quiet (r : Response) : Prop where
  lenOut_le : r.lenOut.toNat ≤ 8
  shape_le : r.shapeOut.toNat ≤ 5
  payOut_zero : ∀ j < 8, r.lenOut.toNat ≤ j → byteAt r.payOut j = 0
  noFrame : r.txValid = false ∧ r.txId = 0 ∧ r.txRtr = false ∧ r.txLen = 0 ∧ r.txData = 0

/-- A response without a frame is sound when its status carries the fields R162 gives it. -/
theorem Response.Quiet.sound {r : Response} (h : r.Quiet)
    (raised : r.status ∈ [Status.outOfRange, .busy, .illegalRequest, .ignoredFormat] →
      r = { status := r.status })
    (malformed : r.status = .malformedPayload →
      r = { status := r.status } ∨ r = frameReport .malformedPayload r.idOut)
    (reported : r.status ∈ [Status.ignoredNode, .unknownCommand] → r = frameReport r.status r.idOut)
    (lifecycle : r.status ∈ [Status.cancelled, .timeout, .notPending] →
      r = { status := r.status, idOut := r.idOut })
    (decoded : r.status ∈ [Status.completed, .unsolicited, .discarded] →
      r.nodeOut = nodeOf r.idOut ∧ r.cmdOut = cmdOf r.idOut ∧ r.shapeOut ≠ 0) : r.Sound := by
  obtain ⟨hvalid, hid, hrtr, hlen, hdata⟩ := h.noFrame
  exact {
    lenOut_le := h.lenOut_le
    txLen_le := by simp [hlen]
    shape_le := h.shape_le
    payOut_zero := h.payOut_zero
    txData_zero := fun j _ _ => by rw [hdata, byteAt_zero]
    noFrame := fun _ => ⟨hid, hrtr, hlen, hdata⟩
    frame := by simp [hvalid]
    raised, malformed, reported, lifecycle, decoded }

/-- A response with only a status and the identifier fields set has no frame. -/
theorem quiet_ids (st : Status) (i : Ident) (n : NodeId) (c : CmdId) :
    Response.Quiet { status := st, idOut := i, nodeOut := n, cmdOut := c } :=
  ⟨Nat.zero_le 8, Nat.zero_le 5, fun j _ _ => byteAt_zero j, rfl, rfl, rfl, rfl, rfl⟩

/-- The shape tag of a fixed shape is neither NONE nor reserved (R66). -/
theorem shapeCode_ne_zero_and_le (S : FixedShape) : shapeCode S ≠ 0 ∧ (shapeCode S).toNat ≤ 5 := by
  cases S <;> decide

/-- So is the tag of the raw endpoint shape (R66, R67). -/
theorem endptCode_ne_zero_and_le : endptCode ≠ 0 ∧ endptCode.toNat ≤ 5 := by decide

theorem quiet_decodeFixedInto {r : Response} (h : r.Quiet) (S : FixedShape) (p : PayBus) :
    (decodeFixedInto S p r).Quiet :=
  ⟨h.lenOut_le, (shapeCode_ne_zero_and_le S).2, h.payOut_zero, h.noFrame⟩

/-- A copy of the first `n` bytes is zero from byte `n` on (R125, R126, R130). -/
theorem byteAt_copyBytes_of_le (p : PayBus) {n j : Nat} (hj : j < 8) (h : n ≤ j) :
    byteAt (copyBytes p n) j = 0 := by
  rw [byteAt_copyBytes p n j (by omega) hj, if_neg (by omega)]

theorem quiet_decodeEndptInto {r : Response} (h : r.Quiet) {len : LenBus} (hlen : len.toNat ≤ 8)
    (p : PayBus) : (decodeEndptInto len p r).Quiet :=
  ⟨hlen, endptCode_ne_zero_and_le.2, fun _ => byteAt_copyBytes_of_le p, h.noFrame⟩

/-- Fields that end within the first `n` bytes leave the bytes from `n` on as they were (R43, R110). -/
theorem byteAt_writeFields_of_le (ops : Fields) {n j : Nat} (hj : j < 8) (hn : n ≤ j)
    (fs : List FieldSpec) (hfs : ∀ f ∈ fs, f.off + f.width ≤ n) (p : PayBus) :
    byteAt (writeFields ops fs p) j = byteAt p j := by
  induction fs generalizing p with
  | nil => rfl
  | cons f fs ih =>
    have hend : f.off + f.width ≤ n := hfs f List.mem_cons_self
    rw [writeFields, ih fun g hg => hfs g (List.mem_cons_of_mem f hg),
      byteAt_payWrite _ _ _ _ _ (by omega) hj, if_neg (by omega)]

theorem shapeLen_le (S : FixedShape) : shapeLen S ≤ 8 := by
  cases S <;> decide

/-- LEN_OUT holds the length of a shape whole (R110). -/
theorem toNat_shapeLen (S : FixedShape) : (BitVec.ofNat 4 (shapeLen S)).toNat = shapeLen S := by
  cases S <;> rfl

theorem quiet_encodedResponse (S : FixedShape) (ops : Fields) : (encodedResponse S ops).Quiet where
  lenOut_le := (toNat_shapeLen S).trans_le (shapeLen_le S)
  shape_le := Nat.zero_le 5
  payOut_zero j hj hlen :=
    have hS : shapeLen S ≤ j := (toNat_shapeLen S).symm.trans_le hlen
    (byteAt_writeFields_of_le ops hj hS _ (shapeFields_end_le S) 0).trans (byteAt_zero j)
  noFrame := ⟨rfl, rfl, rfl, rfl, rfl⟩

/-! ## The responses of R162, by status -/

theorem Response.Quiet.sound_of_ok {r : Response} (h : r.Quiet) (hok : r.status = .ok) : r.Sound :=
  h.sound (by simp [hok]) (by simp [hok]) (by simp [hok]) (by simp [hok]) (by simp [hok])

/-- The raised outcomes, and MALFORMED_PAYLOAD of a decoder: only STATUS. -/
theorem sound_status {st : Status}
    (hst : st ∈ [Status.outOfRange, .malformedPayload, .busy, .illegalRequest, .ignoredFormat]) :
    Response.Sound { status := st } := by
  refine (quiet_ids st 0 0 0).sound (fun _ => rfl) (fun _ => Or.inl rfl) ?_ ?_ ?_ <;>
    cases st <;> simp at hst ⊢

/-- A report of RECV that names its frame and nothing else. -/
theorem sound_frameReport {st : Status}
    (hst : st ∈ [Status.malformedPayload, .ignoredNode, .unknownCommand]) (i : Ident) :
    (frameReport st i).Sound := by
  refine (quiet_ids st i (nodeOf i) (cmdOf i)).sound ?_ ?_ (fun _ => rfl) ?_ ?_ <;>
    cases st <;> simp [frameReport] at hst ⊢

/-- An outcome of CANCEL or TIMEOUT: STATUS and ID_OUT. -/
theorem sound_lifecycle {st : Status} (hst : st ∈ [Status.cancelled, .timeout, .notPending]) (i : Ident) :
    Response.Sound { status := st, idOut := i } := by
  refine (quiet_ids st i 0 0).sound ?_ ?_ ?_ (fun _ => rfl) ?_ <;> cases st <;> simp at hst ⊢

/-- The outcome of a decoded frame: the frame named, with a shape. -/
theorem Response.Quiet.sound_decoded {r : Response} (h : r.Quiet) {st : Status}
    (hst : st ∈ [Status.completed, .unsolicited, .discarded])
    (hnames : r.nodeOut = nodeOf r.idOut ∧ r.cmdOut = cmdOf r.idOut ∧ r.shapeOut ≠ 0) :
    Response.Sound { r with status := st } := by
  have hquiet : Response.Quiet { r with status := st } :=
    ⟨h.lenOut_le, h.shape_le, h.payOut_zero, h.noFrame⟩
  refine hquiet.sound ?_ ?_ ?_ ?_ (fun _ => hnames) <;> cases st <;> simp at hst ⊢

/-- SEND's response with its frame (R130, R131). -/
theorem sound_emitInto (i : Ident) (rtr : Bool) {len : LenBus} (hlen : len.toNat ≤ 8) (p : PayBus) :
    (emitInto i rtr len p { status := .ok, idOut := i }).Sound where
  lenOut_le := Nat.zero_le 8
  txLen_le := hlen
  shape_le := Nat.zero_le 5
  payOut_zero j _ _ := byteAt_zero j
  txData_zero _ := byteAt_copyBytes_of_le p
  noFrame := by simp [emitInto]
  frame _ := ⟨rfl, rfl⟩
  raised := by simp [emitInto]
  malformed := by simp [emitInto]
  reported := by simp [emitInto]
  lifecycle := by simp [emitInto]
  decoded := by simp [emitInto]

/-! ## Every operation answers a sound response -/

/-- A request that ended with a sound response. -/
def EndsSound (x : Result) : Prop := ∃ (t : State) (r : Response), x = .next (t.respond r) ∧ r.Sound

theorem endsSound_next (t : State) {r : Response} (h : r.Sound) : EndsSound (.next (t.respond r)) :=
  ⟨t, r, rfl, h⟩

theorem EndsSound.response {x : Result} (hx : EndsSound x) {t : State} (ht : x = .next t) {r : Response}
    (hr : t.response = some r) : r.Sound := by
  obtain ⟨u, d, hu, hd⟩ := hx
  cases hu.symm.trans ht
  cases hr
  exact hd

theorem endsSound_withLen {len : LenBus} {s : State} {k : Result} (hk : len.toNat ≤ 8 → EndsSound k) :
    EndsSound (withLen len s k) := by
  by_cases h : len.toNat ≤ 8
  · rw [withLen_legal len s k h]
    exact hk h
  · exact withLen_illegal len s k (by omega) ▸ endsSound_next s (sound_status (by simp))

theorem endsSound_withPair {n c : IdBus} {s : State} {k : Ident → Result} (hk : ∀ i, EndsSound (k i)) :
    EndsSound (withPair n c s k) := by
  by_cases h : n.toNat < 64 ∧ c.toNat < 32
  · exact withPair_inRange n c s k h.1 h.2 ▸ hk _
  · exact withPair_outOfRange n c s k (by omega) ▸ endsSound_next s (sound_status (by simp))

theorem endsSound_withNode {n : IdBus} {s : State} {k : NodeId → Result} (hk : ∀ m, EndsSound (k m)) :
    EndsSound (withNode n s k) := by
  by_cases h : n.toNat < 64
  · exact withNode_inRange n s k h ▸ hk _
  · exact withNode_outOfRange n s k (by omega) ▸ endsSound_next s (sound_status (by simp))

theorem endsSound_decodeFixed (S : FixedShape) (len : LenBus) (p : PayBus) (s : State) :
    EndsSound (decodeFixed S len p s) := by
  rcases decodeFixed_cases S len p s with ⟨-, h⟩ | ⟨-, -, h⟩ | ⟨-, -, h⟩
  · exact h ▸ endsSound_next s (sound_status (by simp))
  · exact h ▸ endsSound_next s (sound_status (by simp))
  · exact h ▸ endsSound_next s ((quiet_decodeFixedInto (quiet_ids .ok 0 0 0) S p).sound_of_ok rfl)

theorem endsSound_endPending {terminal : Status} (hterm : terminal ∈ [Status.cancelled, .timeout, .notPending])
    (n c : IdBus) (s : State) : EndsSound (endPending terminal n c s) := by
  rcases endPending_cases terminal n c s with ⟨-, h⟩ | ⟨-, -, h⟩ | ⟨-, -, h⟩
  · exact h ▸ endsSound_next s (sound_status (by simp))
  · exact h ▸ endsSound_next _ (sound_lifecycle hterm _)
  · exact h ▸ endsSound_next s (sound_lifecycle (by simp) _)

theorem endsSound_execSend (e r : Bool) (n c : IdBus) (len : LenBus) (p : PayBus) (s : State) :
    EndsSound (execSend e r n c len p s) := by
  rcases execSend_cases e r n c len p s with
    ⟨-, h⟩ | ⟨-, -, h⟩ | ⟨-, -, -, -, -, h⟩ | ⟨hlen, -, -, -, -, h⟩ | ⟨hlen, -, -, -, h⟩
  · exact h ▸ endsSound_next s (sound_status (by simp))
  · exact h ▸ endsSound_next s (sound_status (by simp))
  · exact h ▸ endsSound_next s (sound_status (by simp))
  · exact h ▸ endsSound_next _ (sound_emitInto _ r hlen p)
  · exact h ▸ endsSound_next s (sound_emitInto _ r hlen p)

theorem endsSound_deliver (i : Ident) (telemetry : Bool) {r : Response} (hr : r.Quiet)
    (hnames : r.nodeOut = nodeOf r.idOut ∧ r.cmdOut = cmdOf r.idOut ∧ r.shapeOut ≠ 0) (s : State) :
    EndsSound (deliver i telemetry r s) := by
  rcases deliver_cases i telemetry r s with ⟨-, h⟩ | ⟨-, -, h⟩ | ⟨-, -, h⟩ <;>
    exact h ▸ endsSound_next _ (hr.sound_decoded (by simp) hnames)

theorem endsSound_execRecv (r x : Bool) (i : Ident) (len : LenBus) (p : PayBus) (s : State) :
    EndsSound (execRecv r x i len p s) := by
  have hframe : (frameReport .discarded i).Quiet := quiet_ids .discarded i (nodeOf i) (cmdOf i)
  rcases execRecv_cases r x i len p s with
    ⟨-, h⟩ | ⟨-, -, h⟩ | ⟨-, -, -, -, h⟩ | ⟨-, -, -, -, -, h⟩ | ⟨hlen, -, -, -, -, h⟩ |
    ⟨-, -, -, -, -, -, -, h⟩ | ⟨entry, -, -, -, -, -, -, h⟩
  · exact h ▸ endsSound_next s (sound_status (by simp))
  · exact h ▸ endsSound_next s (sound_status (by simp))
  · exact h ▸ endsSound_next s (sound_frameReport (by simp) i)
  · exact h ▸ endsSound_next s (sound_frameReport (by simp) i)
  · exact h ▸ endsSound_deliver i false (quiet_decodeEndptInto hframe hlen p)
      ⟨rfl, rfl, endptCode_ne_zero_and_le.1⟩ s
  · exact h ▸ endsSound_next s (sound_frameReport (by simp) i)
  · exact h ▸ endsSound_deliver i entry.telemetry (quiet_decodeFixedInto hframe entry.rxShape p)
      ⟨rfl, rfl, (shapeCode_ne_zero_and_le entry.rxShape).1⟩ s

/-- Every operation ends with a sound response (R28, R162). -/
theorem endsSound_exec (i : Instr) (s : State) : EndsSound (exec i s) := by
  have hids (t : State) (j : Ident) (n : NodeId) (c : CmdId) :
      EndsSound (.next (t.respond { status := .ok, idOut := j, nodeOut := n, cmdOut := c })) :=
    endsSound_next t ((quiet_ids .ok j n c).sound_of_ok rfl)
  have henc (S : FixedShape) (ops : Fields) : EndsSound (.next (s.respond (encodedResponse S ops))) :=
    endsSound_next s ((quiet_encodedResponse S ops).sound_of_ok rfl)
  cases i with
  | idPack n c => exact endsSound_withPair fun j => hids s j 0 0
  | idFromRaw w => exact hids s (maskRaw w) 0 0
  | idNode j => exact hids s 0 (nodeOf j) 0
  | idCmd j => exact hids s 0 0 (cmdOf j)
  | idRaw j => exact hids s j 0 0
  | encEmpty => exact henc .empty _
  | decEmpty len p => exact endsSound_decodeFixed .empty len p s
  | encBusvi a0 a1 => exact henc .busvi _
  | decBusvi len p => exact endsSound_decodeFixed .busvi len p s
  | encInpos a0 a1 a2 => exact henc .inpos _
  | decInpos len p => exact endsSound_decodeFixed .inpos len p s
  | encHbeat a0 a1 a2 a3 => exact henc .hbeat _
  | decHbeat len p => exact endsSound_decodeFixed .hbeat len p s
  | encEndpt len p =>
    refine endsSound_withLen fun hlen => endsSound_next s (Response.Quiet.sound_of_ok ?_ rfl)
    exact ⟨hlen, Nat.zero_le 5, fun _ => byteAt_copyBytes_of_le p, rfl, rfl, rfl, rfl, rfl⟩
  | decEndpt len p =>
    exact endsSound_withLen fun hlen =>
      endsSound_next s ((quiet_decodeEndptInto (quiet_ids .ok 0 0 0) hlen p).sound_of_ok rfl)
  | send e r n c len p => exact endsSound_execSend e r n c len p s
  | recv r x j len p => exact endsSound_execRecv r x j len p s
  | cancel n c => exact endsSound_endPending (by simp) n c s
  | timeout n c => exact endsSound_endPending (by simp) n c s
  | subscribe n => exact endsSound_withNode fun m => hids (s.setSub m) 0 m 0
  | unsubscribe n => exact endsSound_withNode fun m => hids (s.clearSub m) 0 m 0

/-! ## Every step keeps the invariant -/

/-- No operation breaks the canonical form of PEND or SUB (log entry 1). -/
theorem exec_keeps_wf {i : Instr} {s t : State} (h : exec i s = .next t) (hpend : s.pend.wf)
    (hsub : s.sub.wf) : t.pend.wf ∧ t.sub.wf := by
  obtain ⟨p, q, d, he⟩ := exec_shape i s
  have hd : t.response = some d := by
    cases he.symm.trans h
    rfl
  rcases exec_cases i s t d h hd with
    ⟨rfl, -⟩ | ⟨_, n, c, _, _, -, -, -, -, -, rfl, -⟩ | ⟨j, _, _, -, -, -, -, -, -, rfl⟩ |
    ⟨n, c, -, -, -, -, -, rfl⟩ | ⟨n, -, -, ⟨-, rfl⟩ | ⟨-, rfl⟩⟩
  · exact ⟨hpend, hsub⟩
  · exact ⟨BitArray.wf_setBit _ _ hpend, hsub⟩
  · exact ⟨BitArray.wf_clearBit _ _ hpend, hsub⟩
  · exact ⟨BitArray.wf_clearBit _ _ hpend, hsub⟩
  · exact ⟨hpend, BitArray.wf_setBit _ _ hsub⟩
  · exact ⟨hpend, BitArray.wf_clearBit _ _ hsub⟩

theorem State.Inv.exec {i : Instr} {s t : State} (hinv : s.Inv) (h : exec i s = .next t) : t.Inv := by
  obtain ⟨hpend, hsub⟩ := exec_keeps_wf h hinv.pend_wf hinv.sub_wf
  exact ⟨hpend, hsub, exec_cfg h ▸ hinv.cfg_valid, fun _ => (endsSound_exec i s).response h⟩

/-- Taking a request off its queue touches nothing the invariant speaks of. -/
theorem State.Inv.take {s : State} (hinv : s.Inv) (a : Agent) (rest : List Request) :
    (s.take a rest).Inv := by
  obtain ⟨hpend, hsub, hcfg, hresponse⟩ := hinv
  exact ⟨by simpa using hpend, by simpa using hsub, by simpa using hcfg, by simpa using hresponse⟩

theorem State.Inv.respond {s : State} (hinv : s.Inv) {r : Response} (hr : r.Sound) : (s.respond r).Inv := by
  refine ⟨hinv.pend_wf, hinv.sub_wf, hinv.cfg_valid, ?_⟩
  rintro _ ⟨⟩
  exact hr

theorem State.Inv.resetBlock {s : State} (hinv : s.Inv) : s.resetBlock.Inv :=
  ⟨BitArray.wf_nil, BitArray.wf_nil, hinv.cfg_valid, by simp⟩

/-- Settles O49, by what a step can do. -/
theorem stepKeepsSoundState : Obligations.StepKeepsSoundState := by
  intro s t hinv h
  have hschedule (turns : List Turn) : State.Inv { s with schedule := turns } :=
    ⟨hinv.pend_wf, hinv.sub_wf, hinv.cfg_valid, hinv.response_sound⟩
  rcases step_cases s with hs | ⟨turns, -, hs⟩ | ⟨a, q, rest, -, -, hs | ⟨i, -, hs⟩⟩
  · cases hs.symm.trans h
    exact hschedule _
  · cases hs.symm.trans h
    exact (hschedule turns).resetBlock
  · cases hs.symm.trans h
    exact (hinv.take a rest).respond (sound_status (by simp))
  · exact (hinv.take a rest).exec (hs.symm.trans h)

/-- Settles O50: both arrays are empty, GK4 is valid (O56), and no response is outstanding. -/
theorem resetStateIsSound : Obligations.ResetStateIsSound :=
  ⟨BitArray.wf_nil, BitArray.wf_nil, defaultConfigurationIsValid.1, by simp [State.reset]⟩

/-- Settles O51: an empty array reads 0 everywhere. -/
theorem resetClearsPendAndSub : Obligations.ResetClearsPendAndSub :=
  ⟨BitArray.read_nil, BitArray.read_nil, rfl, fun s =>
    ⟨s.resetBlock_pendAt, s.resetBlock_subAt, s.resetBlock_response, s.resetBlock_cfg⟩⟩

end Sys2Proof.Machine
end

section
/-! What an operation does to the bits of PEND and SUB (10_state.md sections 2 and 3): the frame of every
operation (O45), the lifecycle of a pending bit (O46), a repeated reply (O34) and the activity of a node
(O42). The effects are read off `exec_cases`. -/

namespace Sys2Proof.Machine

/-! ## The bits a write changes -/

/-- Setting a bit changes at most that bit (R22 to R24). -/
theorem BitArray.eq_of_read_setBit_ne {w : Nat} {a : BitArray w} {i j : BitVec w}
    (h : (BitArray.setBit i a).read j ≠ a.read j) : j = i := by
  by_contra hji
  simp [hji] at h

/-- Clearing a bit changes at most that bit (R22 to R24). -/
theorem BitArray.eq_of_read_clearBit_ne {w : Nat} {a : BitArray w} {i j : BitVec w}
    (h : (BitArray.clearBit i a).read j ≠ a.read j) : j = i := by
  by_contra hji
  simp [hji] at h

/-- The bit a clearing turns from 1 to 0 is the one it names, when that one was 1. -/
theorem pendAt_and_not_clearPend_iff {s : State} {i : Ident} (hi : s.pendAt i = true) (j : Ident) :
    s.pendAt j = true ∧ (s.clearPend i).pendAt j = false ↔ i = j := by
  constructor
  · rintro ⟨hj, hclear⟩
    have hji : j = i := by simpa [hj] using hclear
    exact hji.symm
  · rintro rfl
    simp [hi]

/-- Clearing a bit never sets one. -/
theorem pendAt_of_clearPend {s : State} {i j : Ident} (h : (s.clearPend i).pendAt j = true) :
    s.pendAt j = true := by
  rw [State.clearPend_pendAt, Bool.and_eq_true] at h
  exact h.2

/-- A node id below 64 keeps its value on the 6 bits of a node result (R76). -/
theorem toNat_nodeId {n : IdBus} (hn : n.toNat < 64) : (BitVec.ofNat 6 n.toNat).toNat = n.toNat := by
  rw [BitVec.toNat_ofNat, Nat.mod_eq_of_lt hn]

/-! ## The frame -/

/-- An operation answers a response (R12, R28). -/
theorem exec_response {i : Instr} {s t : State} (h : exec i s = .next t) : ∃ d, t.response = some d := by
  obtain ⟨p, q, d, he⟩ := exec_shape i s
  cases he.symm.trans h
  exact ⟨d, rfl⟩

/-- Settles O45: the fields that stay by the shape of the next state, the bits by the effects an operation
can have. -/
theorem operationFrames : Obligations.OperationFrames := by
  intro i s t h
  refine ⟨?_, ?_⟩
  · obtain ⟨p, q, d, he⟩ := exec_shape i s
    cases he.symm.trans h
    rfl
  obtain ⟨d, hd⟩ := exec_response h
  rcases exec_cases i s t d h hd with
    ⟨rfl, -⟩ | ⟨r, n, c, len, p, rfl, hn, hc, -, -, rfl, -⟩ | ⟨k, len, p, rfl, -, -, -, -, -, rfl⟩ |
    ⟨n, c, hi, hn, hc, -, -, rfl⟩ | ⟨n, hn, -, ⟨rfl, rfl⟩ | ⟨rfl, rfl⟩⟩
  · simp
  · refine ⟨fun j hj => Or.inl ⟨true, r, n, c, len, p, rfl, ?_⟩, by simp⟩
    rw [BitArray.eq_of_read_setBit_ne hj, mkIdent_toNat _ _ hn hc]
  · refine ⟨fun j hj => Or.inr (Or.inl ⟨false, false, len, p, ?_⟩), by simp⟩
    rw [BitArray.eq_of_read_clearBit_ne hj]
  · refine ⟨fun j hj => ?_, by simp⟩
    have hpair : j.toNat = 32 * n.toNat + c.toNat := by
      rw [BitArray.eq_of_read_clearBit_ne hj, mkIdent_toNat _ _ hn hc]
    rcases hi with ⟨rfl, -⟩ | ⟨rfl, -⟩
    · exact Or.inr (Or.inr (Or.inl ⟨n, c, rfl, hpair⟩))
    · exact Or.inr (Or.inr (Or.inr ⟨n, c, rfl, hpair⟩))
  · exact ⟨by simp, fun m hm => Or.inl ⟨n, rfl, by rw [BitArray.eq_of_read_setBit_ne hm, toNat_nodeId hn]⟩⟩
  · exact ⟨by simp, fun m hm => Or.inr ⟨n, rfl, by rw [BitArray.eq_of_read_clearBit_ne hm, toNat_nodeId hn]⟩⟩

/-! ## The lifecycle of a pending bit -/

/-- Settles O46, by the effects an operation can have: only the opening SEND writes a 1, and the two effects
that write a 0 are the ones with a terminal status. -/
theorem pendingBitLifecycle : Obligations.PendingBitLifecycle := by
  intro i s t d h hd j
  rcases exec_cases i s t d h hd with
    ⟨rfl, hcompleted, htimeout, hcancelled, -⟩ | ⟨r, n, c, len, p, rfl, -, -, -, -, rfl, rfl⟩ |
    ⟨k, len, p, rfl, -, hk, -, hst, rfl, rfl⟩ | ⟨n, c, hi, -, -, hk, hdr, rfl⟩ |
    ⟨n, -, rfl, ⟨rfl, rfl⟩ | ⟨rfl, rfl⟩⟩
  · simp +contextual [hcompleted, htimeout, hcancelled]
  · refine ⟨fun hj ht => ⟨⟨r, n, c, len, p, rfl⟩, rfl, ?_⟩, ?_, ?_⟩
    · have hopened : j = mkIdent n.toNat c.toNat := by simpa [hj] using ht
      exact hopened.symm
    · simp +contextual [emitInto]
    · simp [emitInto]
  · refine ⟨fun hj ht => ?_, ?_, ?_⟩
    · simp [pendAt_of_clearPend ht] at hj
    · exact (pendAt_and_not_clearPend_iff hk j).trans (by simp [hst])
    · simp [hst]
  · refine ⟨fun hj ht => ?_, ?_, ?_⟩
    · simp [pendAt_of_clearPend ht] at hj
    · refine (pendAt_and_not_clearPend_iff hk j).trans ?_
      rw [hdr]
      rcases hi with ⟨-, hst⟩ | ⟨-, hst⟩ <;> simp [hst]
    · rcases hi with ⟨rfl, hst⟩ | ⟨rfl, hst⟩ <;> simp [hst]
  · simp
  · simp

/-! ## A repeated reply -/

/-- RECV completes the pending request of its own frame, or writes only the response (R135, R141). -/
theorem exec_recv_cases {r x : Bool} {i : Ident} {len : LenBus} {p : PayBus} {s t : State} {d : Response}
    (h : exec (.recv r x i len p) s = .next t) (hd : t.response = some d) :
    (d.status ≠ .completed ∧ t = s.respond d) ∨ (s.pendAt i = true ∧ t = (s.clearPend i).respond d) := by
  rcases exec_cases _ s t d h hd with
    ⟨ht, hcompleted, -⟩ | ⟨_, _, _, _, _, hi, -⟩ | ⟨j, _, _, hi, -, hj, -, -, -, ht⟩ |
    ⟨_, _, ⟨hi, -⟩ | ⟨hi, -⟩, -⟩ | ⟨_, -, -, ⟨hi, -⟩ | ⟨hi, -⟩⟩
  · exact Or.inl ⟨hcompleted, ht⟩
  · cases hi
  · cases hi
    exact Or.inr ⟨hj, ht⟩
  all_goals cases hi

/-- Settles O34: the completed pair is no longer pending, so a further frame of it completes nothing. -/
theorem duplicateReplyNeverCompletesAgain : Obligations.DuplicateReplyNeverCompletesAgain := by
  intro r x r' x' i len len' p p' s t u d d' h hd hcompleted h' hd'
  have hcleared : t.pendAt i = false := by
    rcases exec_recv_cases h hd with ⟨hne, -⟩ | ⟨-, rfl⟩
    · exact absurd hcompleted hne
    · simp
  rcases exec_recv_cases h' hd' with hother | ⟨hpending, -⟩
  · exact hother
  · simp [hcleared] at hpending

/-! ## The activity of a node -/

theorem exec_subscribe {n : IdBus} (hn : n.toNat < 64) (s : State) :
    exec (.subscribe n) s =
      .next ((s.setSub (BitVec.ofNat 6 n.toNat)).respond
        { status := .ok, nodeOut := BitVec.ofNat 6 n.toNat }) :=
  withNode_inRange n s (fun m => finish { status := .ok, nodeOut := m } (s.setSub m)) hn

theorem exec_unsubscribe {n : IdBus} (hn : n.toNat < 64) (s : State) :
    exec (.unsubscribe n) s =
      .next ((s.clearSub (BitVec.ofNat 6 n.toNat)).respond
        { status := .ok, nodeOut := BitVec.ofNat 6 n.toNat }) :=
  withNode_inRange n s (fun m => finish { status := .ok, nodeOut := m } (s.clearSub m)) hn

/-- Settles O42: the node's own SUB bit after SUBSCRIBE, and only its pending requests after UNSUBSCRIBE. -/
theorem nodeActivity : Obligations.NodeActivity := by
  intro n s t u hn hsub hunsub
  cases (exec_subscribe hn s).symm.trans hsub
  cases (exec_unsubscribe hn s).symm.trans hunsub
  have hnode (j : Ident) : nodeOf j = BitVec.ofNat 6 n.toNat ↔ j.toNat / 32 = n.toNat := by
    rw [← BitVec.toNat_inj, nodeOf_toNat, toNat_nodeId hn]
  refine ⟨(active_iff _ _).mpr (Or.inl (by simp)), ?_⟩
  simp only [active_iff, hnode, State.respond_subAt, State.clearSub_subAt, State.respond_pendAt,
    State.clearSub_pendAt, decide_true, Bool.not_true, Bool.false_and, Bool.false_eq_true, false_or]

end Sys2Proof.Machine
end

section
/-! Proofs of the statements of 20_memory.md: the payload as little-endian bytes (O13), the operations that
read and write no state (O21), and the order in which requests are served (O8). -/

namespace Sys2Proof.Machine

/-! ## The payload as a little-endian number (R40 to R43) -/

/-- A read whose bytes are the base-256 digits of `v` gives the low `8n` bits of `v` (R42). -/
theorem payRead_eq_mod_of_digits {p : PayBus} {off n v : Nat}
    (h : ∀ k < n, (byteAt p (off + k)).toNat = v / 2 ^ (8 * k) % 256) :
    payRead p off n = v % 2 ^ (8 * n) := by
  induction n with
  | zero => exact (Nat.mod_one v).symm
  | succ n ih =>
    have hpow : 2 ^ (8 * (n + 1)) = 2 ^ (8 * n) * 256 := Nat.pow_add 2 (8 * n) 8
    rw [payRead, ih fun k hk => h k (by omega), h n n.lt_succ_self, hpow, Nat.mod_mul, Nat.shiftLeft_eq,
      Nat.mul_comm (2 ^ (8 * n))]

/-- A read is the bit field of the payload at its offset (R40, R42). -/
theorem payRead_eq_bitField (p : PayBus) (off n : Nat) :
    payRead p off n = p.toNat / 2 ^ (8 * off) % 2 ^ (8 * n) :=
  payRead_eq_mod_of_digits fun k _ => by
    rw [byteAt_toNat, Nat.div_div_eq_div_mul, ← Nat.pow_add, ← Nat.mul_add]

theorem payRead_eq_sum (p : PayBus) (off n : Nat) :
    payRead p off n = ((List.range n).map fun k => (byteAt p (off + k)).toNat <<< (8 * k)).sum := by
  induction n with
  | zero => rfl
  | succ n ih =>
    rw [payRead, ih, List.range_succ, List.map_append, List.sum_append, List.map_singleton,
      List.sum_singleton]

/-- Byte `k` of a written field is digit `k` of the value in base 256 (R43). -/
theorem byteAt_payWrite_toNat {off n k : Nat} (p : PayBus) (v : Nat) (hn : off + n ≤ 8) (hk : k < n) :
    (byteAt (payWrite p off n v) (off + k)).toNat = v / 2 ^ (8 * k) % 256 := by
  rw [byteAt_payWrite p off n v _ hn (by omega), if_pos (by omega), Nat.add_sub_cancel_left,
    BitVec.toNat_ofNat]

/-- Settles O13: the bytes of a written field are the digits of its value, and a read puts digits together. -/
theorem payloadReadAfterWrite : Obligations.PayloadReadAfterWrite := by
  intro p off n v hn
  refine ⟨fun hv => ?_, fun j hj hout => ?_, fun k hk => byteAt_payWrite_toNat p v hn hk,
    payRead_eq_sum p off n, payRead_eq_bitField p off n⟩
  · rw [payRead_eq_mod_of_digits fun k hk => byteAt_payWrite_toNat p v hn hk, Nat.mod_eq_of_lt hv]
  · rw [byteAt_payWrite p off n v j hn hj, if_neg (by omega)]

/-! ## The operations that read and write no state (R48) -/

/-- Whatever the state, the same response is delivered and nothing else is written. -/
def AnswersOnly (k : State → Result) : Prop := ∃ r, ∀ s, k s = .next (s.respond r)

theorem answersOnly_finish (r : Response) : AnswersOnly (finish r) := ⟨r, fun _ => rfl⟩

theorem answersOnly_raise (st : Status) : AnswersOnly (raise st) := answersOnly_finish { status := st }

theorem answersOnly_withLen (len : LenBus) {k : State → Result} (hk : AnswersOnly k) :
    AnswersOnly fun s => withLen len s (k s) := by
  by_cases h : len.toNat ≤ 8
  · simpa only [withLen_legal len _ _ h] using hk
  · simp only [withLen_illegal len _ _ (Nat.lt_of_not_le h)]
    exact answersOnly_raise .illegalRequest

theorem answersOnly_decodeFixed (S : FixedShape) (len : LenBus) (p : PayBus) :
    AnswersOnly (decodeFixed S len p) := by
  refine answersOnly_withLen len ?_
  cases tooShort S len with
  | true => exact answersOnly_raise .malformedPayload
  | false => exact answersOnly_finish _

theorem answersOnly_execIdPack (n c : IdBus) : AnswersOnly (execIdPack n c) := by
  unfold execIdPack
  by_cases h : n.toNat < 64 ∧ c.toNat < 32
  · simp only [withPair_inRange n c _ _ h.1 h.2]
    exact answersOnly_finish _
  · have hout : 64 ≤ n.toNat ∨ 32 ≤ c.toNat := by omega
    simp only [withPair_outOfRange n c _ _ hout]
    exact answersOnly_raise .outOfRange

/-- The codec and marshaller operations only answer, the same in every state (R20, R48). -/
theorem answersOnly_exec {i : Instr} (hi : stateless i = true) : AnswersOnly (exec i) := by
  cases i with
  | idPack n c => exact answersOnly_execIdPack n c
  | idFromRaw w => exact answersOnly_finish _
  | idNode j => exact answersOnly_finish _
  | idCmd j => exact answersOnly_finish _
  | idRaw j => exact answersOnly_finish _
  | encEmpty => exact answersOnly_finish _
  | decEmpty len p => exact answersOnly_decodeFixed .empty len p
  | encBusvi a0 a1 => exact answersOnly_finish _
  | decBusvi len p => exact answersOnly_decodeFixed .busvi len p
  | encInpos a0 a1 a2 => exact answersOnly_finish _
  | decInpos len p => exact answersOnly_decodeFixed .inpos len p
  | encHbeat a0 a1 a2 a3 => exact answersOnly_finish _
  | decHbeat len p => exact answersOnly_decodeFixed .hbeat len p
  | encEndpt len p => exact answersOnly_withLen len (answersOnly_finish _)
  | decEndpt len p => exact answersOnly_withLen len (answersOnly_finish _)
  | send e r n c len p => cases hi
  | recv r x j len p => cases hi
  | cancel n c => cases hi
  | timeout n c => cases hi
  | subscribe n => cases hi
  | unsubscribe n => cases hi

/-- Settles O21: delivering one response in every state writes nothing else, and twice is once. -/
theorem codecAndMarshallerAreStateless : Obligations.CodecAndMarshallerAreStateless := by
  intro i s s' t hi h
  obtain ⟨r, hr⟩ := answersOnly_exec hi
  cases (hr s).symm.trans h
  exact ⟨rfl, by simp [answer, hr s'], hr (s.respond r)⟩

/-! ## The order of service (R53, R172) -/

/-- A step that takes a request leaves the state of the taking, but for PEND, SUB and the response, which is
present; any other step spends a turn or resets the block. -/
theorem step_shape (s : State) :
    step s = .next { s with schedule := s.schedule.tail } ∨
    (∃ turns, step s = .next ({ s with schedule := turns } : State).resetBlock) ∨
    ∃ a q rest p b r, s.queue a = q :: rest ∧
      step s = .next { s.take a rest with pend := p, sub := b, response := some r } := by
  rcases step_cases s with hs | ⟨turns, -, hs⟩ | ⟨a, q, rest, hq, -, hs | ⟨i, -, hs⟩⟩
  · exact Or.inl hs
  · exact Or.inr (Or.inl ⟨turns, hs⟩)
  · exact Or.inr (Or.inr ⟨a, q, rest, _, _, _, hq, hs⟩)
  · obtain ⟨p, b, r, he⟩ := exec_shape i (s.take a rest)
    exact Or.inr (Or.inr ⟨a, q, rest, p, b, r, hq, hs.trans he⟩)

/-- Settles O8: only the taking of a request touches a queue, and it removes the oldest of one agent. -/
theorem serviceKeepsEachAgentsOrder : Obligations.ServiceKeepsEachAgentsOrder := by
  intro s t h
  rcases step_shape s with hs | ⟨turns, hs⟩ | ⟨a, q, rest, p, b, r, hq, hs⟩ <;> cases hs.symm.trans h
  · exact Or.inl ⟨rfl, rfl, rfl⟩
  · exact Or.inl ⟨rfl, rfl, rfl⟩
  · cases a with
    | host => exact Or.inr (Or.inl ⟨q, r, hq, rfl, rfl, rfl, rfl⟩)
    | transport => exact Or.inr (Or.inr ⟨q, r, hq, rfl, rfl, rfl, rfl⟩)

end Sys2Proof.Machine
end

section
/-! The request port's encoding (30_encoding.md section 4): the decoder reads an encoded request back (O1), a
request that decodes is the encoding of its instruction on the buses it reads (O2), CTRL words of the spec
(O3), and the conditions of R73 and R74 for a request to be illegal (O5). -/

namespace Sys2Proof.Machine

/-! ## The flags and the control word -/

/-- An instruction carries a flag only where R73 allows it. -/
theorem opcode_of_flags (i : Instr) :
    (i.flagE = true → i.opcode = 0x10) ∧ (i.flagR = true → i.opcode = 0x10 ∨ i.opcode = 0x11) ∧
      (i.flagX = true → i.opcode = 0x11) := by
  cases i <;> simp [Instr.flagE, Instr.flagR, Instr.flagX, Instr.opcode]

/-- A control word with no reserved bit set is its operation code and flags put together (R71, R77). -/
theorem ctrl_eq_ctrlWord {q : Request} (h : q.reserved = 0) :
    q.ctrl = ctrlWord (q.op.setWidth 16) q.flagE q.flagR q.flagX := by
  have hbit {b : Bool} {n : Nat} (hb : b = true ↔ n % 2 = 1) : b.toNat = n % 2 := by
    cases b <;> simp at hb ⊢ <;> omega
  have hreserved : q.ctrl.toNat / 256 = 0 := by rw [← q.reserved_toNat, h]; rfl
  apply BitVec.eq_of_toNat_eq
  rw [ctrlWord_toNat, q.op_toNat, hbit q.flagE_iff, hbit q.flagR_iff, hbit q.flagX_iff]
  omega

/-! ## Decoding -/

/-- With CTRL in order, the instruction OP names is decoded unless its LEN is over 8 (R72 to R74). -/
theorem decode_of_decodeOp {q : Request} {i : Instr} (hreserved : q.reserved = 0)
    (hE : q.flagE = true → q.op = 0x10) (hR : q.flagR = true → q.op = 0x10 ∨ q.op = 0x11)
    (hX : q.flagX = true → q.op = 0x11) (hop : decodeOp q = some i) :
    decode q = if i.wf then .ok i else .error .lenOver8 := by
  unfold decode
  rw [if_neg (not_not.mpr hreserved), if_neg (by tauto), if_neg (by tauto), if_neg (by tauto), hop]

/-- Settles O1: the encoded control word carries the instruction's own code and flags, and the encoded
buses are read back. -/
theorem decodeOfEncode : Obligations.DecodeOfEncode := by
  intro i
  obtain ⟨hop, hE, hR, hX, hreserved⟩ := Request.fields_of_ctrlWord _ _ _ _ _ (encode_ctrl i)
  obtain ⟨hlegalE, hlegalR, hlegalX⟩ := opcode_of_flags i
  apply decode_of_decodeOp hreserved _ _ _ (decodeOp_encode i)
  · rwa [hE, hop]
  · rwa [hR, hop]
  · rwa [hX, hop]

/-- A well-formed instruction's request decodes to it. -/
theorem decode_encode {i : Instr} (h : i.wf = true) : decode (encode i) = .ok i := by
  rw [decodeOfEncode i, if_pos h]

/-- Settles O3, by evaluation of each word. -/
theorem specCtrlWordsDecode : Obligations.SpecCtrlWordsDecode := by
  unfold Obligations.SpecCtrlWordsDecode
  decide

/-! ## The buses an operation reads (R75) -/

@[simp] theorem onlyReads_ctrl (i : Instr) (q : Request) : (onlyReads i q).ctrl = q.ctrl := by
  cases i <;> rfl

@[simp] theorem onlyReads_op (i : Instr) (q : Request) : (onlyReads i q).op = q.op := by
  simp [Request.op]

@[simp] theorem onlyReads_flagE (i : Instr) (q : Request) : (onlyReads i q).flagE = q.flagE := by
  simp [Request.flagE]

@[simp] theorem onlyReads_flagR (i : Instr) (q : Request) : (onlyReads i q).flagR = q.flagR := by
  simp [Request.flagR]

@[simp] theorem onlyReads_flagX (i : Instr) (q : Request) : (onlyReads i q).flagX = q.flagX := by
  simp [Request.flagX]

@[simp] theorem onlyReads_reserved (i : Instr) (q : Request) : (onlyReads i q).reserved = q.reserved := by
  simp [Request.reserved]

/-- The buses an operation does not read play no part in decoding it. -/
theorem decode_onlyReads {q : Request} {i : Instr} (h : q.op = i.opcode) :
    decode (onlyReads i q) = decode q := by
  have hdecodeOp : decodeOp (onlyReads i q) = decodeOp q := by
    rw [decodeOp, decodeOp, onlyReads_op, onlyReads_flagE, onlyReads_flagR, onlyReads_flagX, h]
    cases i <;> rfl
  rw [decode, decode, hdecodeOp, onlyReads_reserved, onlyReads_op, onlyReads_flagE, onlyReads_flagR,
    onlyReads_flagX]

/-- The operands of the instruction OP names are the buses its operation reads. -/
theorem encode_of_decodeOp {q : Request} {i : Instr} (h : decodeOp q = some i) :
    { encode i with ctrl := q.ctrl } = onlyReads i q := by
  unfold decodeOp at h
  split at h <;> cases h <;> rfl

/-- A request that decodes has the control word of its instruction. -/
theorem encode_ctrl_of_decode {q : Request} {i : Instr} (h : decode q = .ok i) :
    (encode i).ctrl = q.ctrl := by
  obtain ⟨hreserved, hE, hR, hX, hdecodeOp, -⟩ := (decode_eq_ok q i).mp h
  obtain ⟨hop, hE', hR', hX', hnotE, hnotR, hnotX⟩ := decodeOp_fields q i hdecodeOp
  have hflagE : i.flagE = q.flagE := by
    by_cases hsend : q.op = 0x10
    · exact hE' hsend
    · rw [hnotE hsend, Bool.eq_false_iff.mpr (mt hE hsend)]
  have hflagR : i.flagR = q.flagR := by
    by_cases hframe : q.op = 0x10 ∨ q.op = 0x11
    · exact hR' hframe
    · rw [hnotR (mt Or.inl hframe) (mt Or.inr hframe), Bool.eq_false_iff.mpr (mt hR hframe)]
  have hflagX : i.flagX = q.flagX := by
    by_cases hrecv : q.op = 0x11
    · exact hX' hrecv
    · rw [hnotX hrecv, Bool.eq_false_iff.mpr (mt hX hrecv)]
  rw [encode_ctrl, ctrl_eq_ctrlWord hreserved, hop, hflagE, hflagR, hflagX]

/-- Settles O2: the control word and the read buses are the encoding's, and decoding looks at nothing else. -/
theorem legalRequestIsItsEncoding : Obligations.LegalRequestIsItsEncoding := by
  intro q i h
  obtain ⟨-, -, -, -, hdecodeOp, hwf⟩ := (decode_eq_ok q i).mp h
  have hop : q.op = i.opcode := (decodeOp_fields q i hdecodeOp).1
  refine ⟨hwf, ?_, fun q' hsame => ?_⟩
  · rw [← encode_of_decodeOp hdecodeOp, ← encode_ctrl_of_decode h]
  · have hctrl : q'.ctrl = q.ctrl := by simpa using congrArg Request.ctrl hsame
    have hop' : q'.op = i.opcode := by rw [← hop, Request.op, Request.op, hctrl]
    rw [← decode_onlyReads hop', hsame, decode_onlyReads hop, h]

/-! ## Illegal requests (R73, R74) -/

/-- The conditions of R73 and R74 on the numbers CTRL and LEN. -/
def IllegalNumbers (q : Request) : Prop :=
  let op := q.ctrl.toNat % 32
  op = 0 ∨ 0x16 ≤ op ∨ q.ctrl.toNat / 256 ≠ 0 ∨ (q.ctrl.toNat / 32 % 2 = 1 ∧ op ≠ 0x10) ∨
    (q.ctrl.toNat / 64 % 2 = 1 ∧ op ≠ 0x10 ∧ op ≠ 0x11) ∨ (q.ctrl.toNat / 128 % 2 = 1 ∧ op ≠ 0x11) ∨
    (op ∈ [0x07, 0x09, 0x0B, 0x0D, 0x0E, 0x0F, 0x10, 0x11] ∧ 8 < q.len.toNat)

/-- OP names an operation exactly when its code is not reserved (R72). -/
theorem exists_decodeOp_iff (q : Request) :
    (∃ i, decodeOp q = some i) ↔ 0 < q.op.toNat ∧ q.op.toNat < 0x16 := by
  unfold decodeOp
  constructor
  · rintro ⟨i, h⟩
    split at h <;> cases h <;> omega
  · rintro ⟨hpos, hlt⟩
    generalize q.op.toNat = code at hpos hlt ⊢
    interval_cases code <;> exact ⟨_, rfl⟩

/-- The instruction OP names is well formed unless its operation reads LEN and LEN is over 8 (R74). -/
theorem wf_of_decodeOp {q : Request} {i : Instr} (h : decodeOp q = some i) :
    i.wf = true ↔
      ¬(q.op.toNat ∈ [0x07, 0x09, 0x0B, 0x0D, 0x0E, 0x0F, 0x10, 0x11] ∧ 8 < q.len.toNat) := by
  unfold decodeOp at h
  split at h <;> cases h <;> simp [*, Instr.wf, Instr.lenOperand, lenOk]

theorem op_eq_iff (q : Request) (k : BitVec 5) : q.op = k ↔ q.ctrl.toNat % 32 = k.toNat := by
  rw [← BitVec.toNat_inj, q.op_toNat]

theorem reserved_eq_zero_iff (q : Request) : q.reserved = 0 ↔ q.ctrl.toNat / 256 = 0 := by
  rw [← q.reserved_toNat, ← BitVec.toNat_inj]
  rfl

/-- The decoder's test, condition by condition, without the instruction it decodes to (R73, R74). -/
theorem exists_decode_iff (q : Request) :
    (∃ i, decode q = .ok i) ↔
      q.reserved = 0 ∧ (q.flagE = true → q.op = 0x10) ∧ (q.flagR = true → q.op = 0x10 ∨ q.op = 0x11) ∧
        (q.flagX = true → q.op = 0x11) ∧ (0 < q.op.toNat ∧ q.op.toNat < 0x16) ∧
        ¬(q.op.toNat ∈ [0x07, 0x09, 0x0B, 0x0D, 0x0E, 0x0F, 0x10, 0x11] ∧ 8 < q.len.toNat) := by
  constructor
  · rintro ⟨i, h⟩
    obtain ⟨hreserved, hE, hR, hX, hop, hwf⟩ := (decode_eq_ok q i).mp h
    exact ⟨hreserved, hE, hR, hX, (exists_decodeOp_iff q).mp ⟨i, hop⟩, (wf_of_decodeOp hop).mp hwf⟩
  · rintro ⟨hreserved, hE, hR, hX, hcode, hlen⟩
    obtain ⟨i, hop⟩ := (exists_decodeOp_iff q).mpr hcode
    exact ⟨i, (decode_eq_ok q i).mpr ⟨hreserved, hE, hR, hX, hop, (wf_of_decodeOp hop).mpr hlen⟩⟩

/-- The decoder refuses a request exactly under the conditions of R73 and R74. -/
theorem exists_decode_iff_not_illegal (q : Request) : (∃ i, decode q = .ok i) ↔ ¬IllegalNumbers q := by
  rw [exists_decode_iff, q.flagE_iff, q.flagR_iff, q.flagX_iff, op_eq_iff, op_eq_iff, reserved_eq_zero_iff,
    q.op_toNat, IllegalNumbers]
  simp only [List.mem_cons, List.not_mem_nil, or_false, BitVec.reduceToNat]
  omega

/-- Taking a request off its queue leaves PEND and SUB as they were. -/
theorem fetch_keeps_bits {s t : State} {q : Request} (h : fetch s = .request q t) :
    t.pend = s.pend ∧ t.sub = s.sub := by
  rcases fetch_cases s with ⟨-, -, -, hf⟩ | ⟨turns, -, hf⟩ | ⟨a, q', rest, -, -, hf⟩ <;>
    cases hf.symm.trans h
  exact ⟨s.take_pend a rest, s.take_sub a rest⟩

/-- Settles O5: an illegal request does not decode, so the step raises; any other decodes and runs. -/
theorem illegalRequestAnsweredFirst : Obligations.IllegalRequestAnsweredFirst := by
  intro s t q hf
  have hlegal := exists_decode_iff_not_illegal q
  refine ⟨fun hillegal => ⟨?_, fetch_keeps_bits hf⟩, fun hnot => ?_⟩
  · cases hd : decode q with
    | ok i => exact absurd hillegal (hlegal.mp ⟨i, hd⟩)
    | error e => simp only [step, hf, hd, raise_eq, State.respond]
  · obtain ⟨i, hd⟩ := hlegal.mpr hnot
    obtain ⟨-, -, -, -, -, hwf⟩ := (decode_eq_ok q i).mp hd
    exact ⟨i, hd, hwf, step_of_decode hf hd⟩

end Sys2Proof.Machine
end

section
/-! Request lines and the pseudo-requests (30_encoding.md section 5): an instruction's line assembles to
the request of the same instruction with its payload cut to LEN bytes, which acts the same (O4); CMDSEND
emits the encoded payload (O26). -/

namespace Sys2Proof.Machine

/-! ## Request lines (R77) -/

/-- The instruction with the payload bytes at index >= LEN at 0, as its line writes it (R13, R77). -/
def cutPayload : Instr → Instr
  | .decEmpty len p => .decEmpty len (copyBytes p len.toNat)
  | .decBusvi len p => .decBusvi len (copyBytes p len.toNat)
  | .decInpos len p => .decInpos len (copyBytes p len.toNat)
  | .decHbeat len p => .decHbeat len (copyBytes p len.toNat)
  | .encEndpt len p => .encEndpt len (copyBytes p len.toNat)
  | .decEndpt len p => .decEndpt len (copyBytes p len.toNat)
  | .send e r n c len p => .send e r n c len (copyBytes p len.toNat)
  | .recv r x i len p => .recv r x i len (copyBytes p len.toNat)
  | i => i

/-- The cut leaves the operation, its flags and LEN. -/
theorem cutPayload_fields (i : Instr) :
    (cutPayload i).opcode = i.opcode ∧ (cutPayload i).flagE = i.flagE ∧ (cutPayload i).flagR = i.flagR ∧
      (cutPayload i).flagX = i.flagX ∧ (cutPayload i).lenOperand = i.lenOperand := by
  cases i <;> exact ⟨rfl, rfl, rfl, rfl, rfl⟩

theorem cutPayload_wf (i : Instr) : (cutPayload i).wf = i.wf := by
  cases i <;> rfl

/-- A well-formed instruction that reads LEN has LEN at most 8 (R74). -/
theorem len_le_of_wf {i : Instr} {len : LenBus} (h : i.wf = true) (hlen : i.lenOperand = some len) :
    len.toNat ≤ 8 := by
  simpa [Instr.wf, hlen, lenOk] using h

/-- The operands of a payload put LEN and the payload's LEN bytes on their buses. -/
theorem onto_payloadOperands (q : Request) {len : LenBus} (p : PayBus) (h : len.toNat ≤ 8) :
    (payloadOperands len p).foldl AsmOperand.onto q =
      { q with len := len, payload := copyBytes p len.toNat } := by
  simp [payloadOperands, AsmOperand.onto, dataBytes_listBytes p len.toNat h]

/-- The line of a well-formed instruction assembles to the request of the instruction with its payload
cut. -/
theorem assemble_asmOf {i : Instr} (h : i.wf = true) : (asmOf i).assemble = encode (cutPayload i) := by
  cases i with
  | send e r n c len p =>
    have hlen : len.toNat ≤ 8 := len_le_of_wf h rfl
    cases e <;> cases r <;>
      simp [AsmLine.assemble, asmOf, AsmOperand.onto, onto_payloadOperands _ p hlen, encode, cutPayload]
  | recv r x j len p =>
    have hlen : len.toNat ≤ 8 := len_le_of_wf h rfl
    cases r <;> cases x <;>
      simp [AsmLine.assemble, asmOf, AsmOperand.onto, onto_payloadOperands _ p hlen, encode, cutPayload]
  | decEmpty len p | decBusvi len p | decInpos len p | decHbeat len p | encEndpt len p | decEndpt len p =>
    have hlen : len.toNat ≤ 8 := len_le_of_wf h rfl
    simp [AsmLine.assemble, asmOf, onto_payloadOperands _ p hlen, encode, cutPayload]
  | _ => simp [AsmLine.assemble, asmOf, AsmOperand.onto, encode, cutPayload]

/-- The first `n` bytes of a payload stand in the copy of its first `n` bytes. -/
theorem byteAt_copyBytes_of_lt (p : PayBus) {n : Nat} (hn : n ≤ 8) :
    ∀ j < n, byteAt (copyBytes p n) j = byteAt p j := fun j hj => by
  rw [byteAt_copyBytes p n j hn (by omega), if_pos hj]

/-- The cut changes nothing an operation looks at (R13). -/
theorem exec_cutPayload {i : Instr} (h : i.wf = true) (s : State) : exec (cutPayload i) s = exec i s := by
  cases i with
  | decEmpty len p => exact decodeFixed_congr (byteAt_copyBytes_of_lt p (len_le_of_wf h rfl)) .empty s
  | decBusvi len p => exact decodeFixed_congr (byteAt_copyBytes_of_lt p (len_le_of_wf h rfl)) .busvi s
  | decInpos len p => exact decodeFixed_congr (byteAt_copyBytes_of_lt p (len_le_of_wf h rfl)) .inpos s
  | decHbeat len p => exact decodeFixed_congr (byteAt_copyBytes_of_lt p (len_le_of_wf h rfl)) .hbeat s
  | encEndpt len p => exact execEncEndpt_congr (byteAt_copyBytes_of_lt p (len_le_of_wf h rfl)) s
  | decEndpt len p => exact execDecEndpt_congr (byteAt_copyBytes_of_lt p (len_le_of_wf h rfl)) s
  | send e r n c len p => exact execSend_congr (byteAt_copyBytes_of_lt p (len_le_of_wf h rfl)) e r n c s
  | recv r x j len p => exact execRecv_congr (byteAt_copyBytes_of_lt p (len_le_of_wf h rfl)) r x j s
  | _ => rfl

/-- Settles O4: the line assembles to the encoding of the instruction with its payload cut to LEN bytes. -/
theorem assembledLineActsTheSame : Obligations.AssembledLineActsTheSame := by
  intro i h
  obtain ⟨hop, hE, hR, hX, hlen⟩ := cutPayload_fields i
  have hdecode : decode (asmOf i).assemble = .ok (cutPayload i) := by
    rw [assemble_asmOf h, decode_encode ((cutPayload_wf i).trans h)]
  exact ⟨cutPayload i, hdecode, hop, hE, hR, hX, hlen, exec_cutPayload h⟩

/-! ## The pseudo-requests (R78) -/

theorem answer_of_exec {i : Instr} {s t : State} {r : Response} (h : exec i s = .next (t.respond r)) :
    answer i s = some r := by
  simp [answer, h]

/-- The first request of CMDSEND answers the encoded payload (R110). -/
theorem answer_cmdSendEncode (S : FixedShape) (ops : Fields) (s : State) :
    answer (cmdSendEncode S ops) s = some (encodedResponse S ops) := by
  cases S <;> rfl

/-- A SEND of a legal length to a pair in range that is not busy emits its frame (R130, R131). -/
theorem answer_send {e r : Bool} {n c : IdBus} {len : LenBus} {s : State} (p : PayBus)
    (hlen : len.toNat ≤ 8) (hn : n.toNat < 64) (hc : c.toNat < 32)
    (hfree : e = false ∨ s.pendAt (mkIdent n.toNat c.toNat) = false) :
    answer (.send e r n c len p) s =
      some (emitInto (mkIdent n.toNat c.toNat) r len p
        { status := .ok, idOut := mkIdent n.toNat c.toNat }) := by
  have hexec : exec (.send e r n c len p) s = execSend e r n c len p s := rfl
  rcases execSend_cases e r n c len p s with
    ⟨hlong, -⟩ | ⟨-, hout, -⟩ | ⟨-, -, -, rfl, hbusy, -⟩ | ⟨-, -, -, -, -, hx⟩ | ⟨-, -, -, -, hx⟩
  · omega
  · omega
  · simp [hbusy] at hfree
  · exact answer_of_exec (hexec.trans hx)
  · exact answer_of_exec (hexec.trans hx)

/-- A decode with a fixed shape succeeds when the payload is as long as the shape (R111). -/
theorem answer_decInstr {S : FixedShape} {len : LenBus} (p : PayBus) (s : State) (hlen : len.toNat ≤ 8)
    (hfit : shapeLen S ≤ len.toNat) :
    answer (decInstr S len p) s = some (decodeFixedInto S p { status := .ok }) := by
  have hexec : exec (decInstr S len p) s = decodeFixed S len p s := by cases S <;> rfl
  rcases decodeFixed_cases S len p s with ⟨hlong, -⟩ | ⟨-, hshort, -⟩ | ⟨-, -, hx⟩
  · omega
  · omega
  · exact answer_of_exec (hexec.trans hx)

/-- An encoded payload lies within its shape's length, so the frame carries it whole (R110, R130). -/
theorem copyBytes_encodeShape (S : FixedShape) (ops : Fields) :
    copyBytes (encodeShape S ops) (shapeLen S) = encodeShape S ops := by
  apply payload_ext
  intro j hj
  rw [byteAt_copyBytes _ _ _ (shapeLen_le S) hj]
  split
  · rfl
  · next hout =>
    have hzero := (quiet_encodedResponse S ops).payOut_zero j hj
      ((toNat_shapeLen S).trans_le (Nat.le_of_not_lt hout))
    exact hzero.symm

theorem mkIdent_eq_ofNat {n c : Nat} (hn : n < 64) (hc : c < 32) :
    mkIdent n c = BitVec.ofNat 11 (32 * n + c) := by
  rw [← mkIdent_toNat n c hn hc, BitVec.ofNat_toNat, BitVec.setWidth_eq]

/-- Settles O26: the encoder's answer, SEND's frame and the decoder's answer, in that order. -/
theorem commandSendEmitsEncodedPayload : Obligations.CommandSendEmitsEncodedPayload := by
  intro S ops e n c s s' s'' hn hc hfree
  rw [← mkIdent_eq_ofNat hn hc] at hfree
  have hlen : (encodedResponse S ops).lenOut.toNat = shapeLen S := toNat_shapeLen S
  have hle : (encodedResponse S ops).lenOut.toNat ≤ 8 := hlen.trans_le (shapeLen_le S)
  have hdata := (congrArg (copyBytes (encodeShape S ops)) hlen).trans (copyBytes_encodeShape S ops)
  exact ⟨rfl, rfl, _, _, _, answer_cmdSendEncode S ops s, answer_send _ hle hn hc hfree, rfl, rfl, hlen,
    hdata, congrArg (Option.map fun x : Response => x.status) (answer_decInstr _ s'' hle hlen.ge)⟩

end Sys2Proof.Machine
end

section
/-! The response fields an operation may set (O44), the classes of a command id (O55) and the layout of the
shapes (O14): the tables of 30_encoding.md sections 2 to 4. -/

namespace Sys2Proof.Machine

/-! ## The response fields an operation may set (R75) -/

/-- A request of operation `i` that ended with a response that sets only the fields of `i`'s row. -/
def EndsInRow (i : Instr) (x : Result) : Prop := ∃ t r, x = .next (State.respond t r) ∧ onlyMaySet i r = r

/-- Every row lists STATUS. -/
theorem onlyMaySet_status (i : Instr) (st : Status) : onlyMaySet i { status := st } = { status := st } := by
  cases i <;> rfl

section
variable {i : Instr}

theorem endsInRow_next (t : State) {r : Response} (h : onlyMaySet i r = r) :
    EndsInRow i (.next (t.respond r)) :=
  ⟨t, r, rfl, h⟩

theorem endsInRow_status (t : State) (st : Status) : EndsInRow i (.next (t.respond { status := st })) :=
  endsInRow_next t (onlyMaySet_status i st)

theorem endsInRow_withLen {len : LenBus} {s : State} {k : Result} (hk : EndsInRow i k) :
    EndsInRow i (withLen len s k) := by
  by_cases h : len.toNat ≤ 8
  · rwa [withLen_legal len s k h]
  · exact withLen_illegal len s k (by omega) ▸ endsInRow_status s .illegalRequest

theorem endsInRow_withPair {n c : IdBus} {s : State} {k : Ident → Result} (hk : ∀ j, EndsInRow i (k j)) :
    EndsInRow i (withPair n c s k) := by
  by_cases h : n.toNat < 64 ∧ c.toNat < 32
  · exact withPair_inRange n c s k h.1 h.2 ▸ hk _
  · exact withPair_outOfRange n c s k (by omega) ▸ endsInRow_status s .outOfRange

theorem endsInRow_withNode {n : IdBus} {s : State} {k : NodeId → Result} (hk : ∀ m, EndsInRow i (k m)) :
    EndsInRow i (withNode n s k) := by
  by_cases h : n.toNat < 64
  · exact withNode_inRange n s k h ▸ hk _
  · exact withNode_outOfRange n s k (by omega) ▸ endsInRow_status s .outOfRange

theorem endsInRow_endPending
    (h : ∀ st j, onlyMaySet i { status := st, idOut := j } = { status := st, idOut := j })
    (terminal : Status) (n c : IdBus) (s : State) : EndsInRow i (endPending terminal n c s) := by
  rcases endPending_cases terminal n c s with ⟨-, hx⟩ | ⟨-, -, hx⟩ | ⟨-, -, hx⟩
  · exact hx ▸ endsInRow_status s .outOfRange
  · exact hx ▸ endsInRow_next _ (h _ _)
  · exact hx ▸ endsInRow_next s (h _ _)

end

/-- A decode with a fixed shape sets SHAPE_OUT and the result buses of the shape's fields (R111). -/
theorem onlyMaySet_decodeFixedInto (S : FixedShape) (len : LenBus) (p : PayBus) :
    onlyMaySet (decInstr S len p) (decodeFixedInto S p { status := .ok }) =
      decodeFixedInto S p { status := .ok } := by
  cases S with
  | empty => rw [decodeFixedInto, decodeShape_empty]; rfl
  | busvi => rw [decodeFixedInto, decodeShape_busvi]; rfl
  | inpos => rw [decodeFixedInto, decodeShape_inpos]; rfl
  | hbeat => rw [decodeFixedInto, decodeShape_hbeat]; rfl

theorem endsInRow_decodeFixed (S : FixedShape) (len : LenBus) (p : PayBus) (s : State) :
    EndsInRow (decInstr S len p) (decodeFixed S len p s) := by
  rcases decodeFixed_cases S len p s with ⟨-, hx⟩ | ⟨-, -, hx⟩ | ⟨-, -, hx⟩
  · exact hx ▸ endsInRow_status s .illegalRequest
  · exact hx ▸ endsInRow_status s .malformedPayload
  · exact hx ▸ endsInRow_next s (onlyMaySet_decodeFixedInto S len p)

theorem endsInRow_execSend (e r : Bool) (n c : IdBus) (len : LenBus) (p : PayBus) (s : State) :
    EndsInRow (.send e r n c len p) (execSend e r n c len p s) := by
  rcases execSend_cases e r n c len p s with
    ⟨-, hx⟩ | ⟨-, -, hx⟩ | ⟨-, -, -, -, -, hx⟩ | ⟨-, -, -, -, -, hx⟩ | ⟨-, -, -, -, hx⟩
  · exact hx ▸ endsInRow_status s .illegalRequest
  · exact hx ▸ endsInRow_status s .outOfRange
  · exact hx ▸ endsInRow_status s .busy
  · exact hx ▸ endsInRow_next _ rfl
  · exact hx ▸ endsInRow_next s rfl

/-- RECV may set every field but the transmit ones, and no step of the receive path sets those. -/
theorem endsInRow_execRecv (r x : Bool) (j : Ident) (len : LenBus) (p : PayBus) (s : State) :
    EndsInRow (.recv r x j len p) (execRecv r x j len p s) := by
  have hdeliver (telemetry : Bool) {d : Response}
      (hd : ∀ st, onlyMaySet (.recv r x j len p) { d with status := st } = { d with status := st }) :
      EndsInRow (.recv r x j len p) (deliver j telemetry d s) := by
    rcases deliver_cases j telemetry d s with ⟨-, hx⟩ | ⟨-, -, hx⟩ | ⟨-, -, hx⟩ <;>
      exact hx ▸ endsInRow_next _ (hd _)
  rcases execRecv_cases r x j len p s with
    ⟨-, hx⟩ | ⟨-, -, hx⟩ | ⟨-, -, -, -, hx⟩ | ⟨-, -, -, -, -, hx⟩ | ⟨-, -, -, -, -, hx⟩ |
    ⟨-, -, -, -, -, -, -, hx⟩ | ⟨entry, -, -, -, -, -, -, hx⟩
  · exact hx ▸ endsInRow_status s .illegalRequest
  · exact hx ▸ endsInRow_status s .ignoredFormat
  · exact hx ▸ endsInRow_next s rfl
  · exact hx ▸ endsInRow_next s rfl
  · exact hx ▸ hdeliver false fun _ => rfl
  · exact hx ▸ endsInRow_next s rfl
  · exact hx ▸ hdeliver entry.telemetry fun _ => rfl

/-- Every operation ends with a response that sets only the fields of its row. -/
theorem endsInRow_exec (i : Instr) (s : State) : EndsInRow i (exec i s) := by
  cases i with
  | idPack n c => exact endsInRow_withPair fun _ => endsInRow_next s rfl
  | idFromRaw w | idNode j | idCmd j | idRaw j => exact endsInRow_next s rfl
  | encEmpty | encBusvi a0 a1 | encInpos a0 a1 a2 | encHbeat a0 a1 a2 a3 => exact endsInRow_next s rfl
  | decEmpty len p => exact endsInRow_decodeFixed .empty len p s
  | decBusvi len p => exact endsInRow_decodeFixed .busvi len p s
  | decInpos len p => exact endsInRow_decodeFixed .inpos len p s
  | decHbeat len p => exact endsInRow_decodeFixed .hbeat len p s
  | encEndpt len p | decEndpt len p => exact endsInRow_withLen (endsInRow_next s rfl)
  | send e r n c len p => exact endsInRow_execSend e r n c len p s
  | recv r x j len p => exact endsInRow_execRecv r x j len p s
  | cancel n c => exact endsInRow_endPending (fun _ _ => rfl) .cancelled n c s
  | timeout n c => exact endsInRow_endPending (fun _ _ => rfl) .timeout n c s
  | subscribe n => exact endsInRow_withNode fun m => endsInRow_next (s.setSub m) rfl
  | unsubscribe n => exact endsInRow_withNode fun m => endsInRow_next (s.clearSub m) rfl

/-- Settles O44: the answer is the response the operation ended with. -/
theorem onlyListedResponseFieldsAreSet : Obligations.OnlyListedResponseFieldsAreSet := by
  intro i s r h
  obtain ⟨t, d, hexec, hd⟩ := endsInRow_exec i s
  cases (answer_of_exec hexec).symm.trans h
  exact hd

/-! ## The classes of a command id (R68) -/

theorem isEndpoint_iff (cfg : CmdConfig) (c : CmdId) :
    isEndpoint cfg c = true ↔ cfg.epLo.toNat ≤ c.toNat ∧ c.toNat ≤ cfg.epHi.toNat := by
  simp [isEndpoint]

/-- R9(f): an endpoint command has no table entry. -/
theorem lookup_of_isEndpoint {cfg : CmdConfig} (hvalid : cfg.valid = true) {c : CmdId}
    (h : isEndpoint cfg c = true) : lookup cfg c = none := by
  obtain ⟨-, -, -, -, -, -, hrange⟩ := (valid_iff cfg).mp hvalid
  have hc := List.all_eq_true.mp hrange c.toNat (List.mem_range.mpr c.isLt)
  simpa [h] using hc

/-- Settles O55: by the table first; an endpoint command has no entry, so the order of the tests does not
matter. -/
theorem commandClassesAreDisjoint : Obligations.CommandClassesAreDisjoint := by
  intro cfg c hvalid
  rw [← isEndpoint_iff]
  cases hentry : lookup cfg c with
  | some entry =>
    have hnot : isEndpoint cfg c = false :=
      Bool.eq_false_iff.mpr fun h => by simp [lookup_of_isEndpoint hvalid h] at hentry
    simp [classify, hentry, hnot]
  | none => cases hrange : isEndpoint cfg c <;> simp [classify, hentry, hrange]

/-! ## The layout of the shapes (R61 to R66) -/

/-- Settles O14, shape by shape from its field table. -/
theorem shapesArePackedContiguously : Obligations.ShapesArePackedContiguously := by
  intro S
  cases S <;> decide

end Sys2Proof.Machine
end

section
/-! The identifier codec (40_identifier_codec.md): packing and rejecting (O10), the accessors (O11) and the
laws that put them together (O12). -/

namespace Sys2Proof.Machine

/-! ## Packing (R100) -/

theorem exec_idPack (n c : IdBus) (s : State) :
    exec (.idPack n c) s = withPair n c s fun i => finish { status := .ok, idOut := i } s := rfl

theorem exec_idPack_inRange {n c : IdBus} (hn : n.toNat < 64) (hc : c.toNat < 32) (s : State) :
    exec (.idPack n c) s = .next (s.respond { status := .ok, idOut := mkIdent n.toNat c.toNat }) :=
  (exec_idPack n c s).trans (withPair_inRange n c s _ hn hc)

theorem exec_idPack_outOfRange {n c : IdBus} (hout : 64 ≤ n.toNat ∨ 32 ≤ c.toNat) (s : State) :
    exec (.idPack n c) s = .next (s.respond { status := .outOfRange }) :=
  (exec_idPack n c s).trans (withPair_outOfRange n c s _ hout)

/-- Settles O10: the pair is either in range, and `mkIdent` is the sum, or it is not. -/
theorem idPackPacksOrRejects : Obligations.IdPackPacksOrRejects := by
  intro n c s
  refine ⟨decode_encode (i := .idPack n c) rfl, fun hn hc => ?_, fun hout => exec_idPack_outOfRange hout s⟩
  rw [exec_idPack_inRange hn hc, mkIdent_eq_ofNat hn hc]
  rfl

/-! ## The accessors (R101 to R104) -/

theorem maskRaw_eq_ofNat (w : RawBus) : maskRaw w = BitVec.ofNat 11 (w.toNat % 2048) := by
  rw [← maskRaw_toNat, BitVec.ofNat_toNat, BitVec.setWidth_eq]

theorem nodeOf_eq_ofNat (i : Ident) : nodeOf i = BitVec.ofNat 6 (i.toNat / 32) := by
  rw [← nodeOf_toNat, BitVec.ofNat_toNat, BitVec.setWidth_eq]

theorem cmdOf_eq_ofNat (i : Ident) : cmdOf i = BitVec.ofNat 5 (i.toNat % 32) := by
  rw [← cmdOf_toNat, BitVec.ofNat_toNat, BitVec.setWidth_eq]

/-- Settles O11: an accessor has no failing branch, and its field is the number R101 to R103 name. -/
theorem idAccessorsAlwaysSucceed : Obligations.IdAccessorsAlwaysSucceed := by
  intro w i s
  rw [← maskRaw_eq_ofNat, ← nodeOf_eq_ofNat, ← cmdOf_eq_ofNat]
  exact ⟨decode_encode (i := .idFromRaw w) rfl, decode_encode (i := .idNode i) rfl,
    decode_encode (i := .idCmd i) rfl, decode_encode (i := .idRaw i) rfl, rfl, rfl, rfl, rfl⟩

/-! ## The codec laws (R106) -/

theorem answer_idPack_inRange {n c : IdBus} (hn : n.toNat < 64) (hc : c.toNat < 32) (s : State) :
    answer (.idPack n c) s = some { status := .ok, idOut := mkIdent n.toNat c.toNat } :=
  answer_of_exec (exec_idPack_inRange hn hc s)

theorem answer_idPack_outOfRange {n c : IdBus} (hout : 64 ≤ n.toNat ∨ 32 ≤ c.toNat) (s : State) :
    answer (.idPack n c) s = some { status := .outOfRange } :=
  answer_of_exec (exec_idPack_outOfRange hout s)

@[simp] theorem answer_idFromRaw (w : RawBus) (s : State) :
    answer (.idFromRaw w) s = some { status := .ok, idOut := maskRaw w } := rfl

@[simp] theorem answer_idNode (i : Ident) (s : State) :
    answer (.idNode i) s = some { status := .ok, nodeOut := nodeOf i } := rfl

@[simp] theorem answer_idCmd (i : Ident) (s : State) :
    answer (.idCmd i) s = some { status := .ok, cmdOut := cmdOf i } := rfl

@[simp] theorem answer_idRaw (i : Ident) (s : State) :
    answer (.idRaw i) s = some { status := .ok, idOut := i } := rfl

/-- R106 (d): an identifier's own fields, put back on the operand buses, are in range and pack to it. -/
theorem answer_idPack_fields (i : Ident) (s : State) :
    answer (.idPack ((nodeOf i).setWidth 8) ((cmdOf i).setWidth 8)) s = some { status := .ok, idOut := i } := by
  have hnode : ((nodeOf i).setWidth 8).toNat = (nodeOf i).toNat :=
    BitVec.toNat_setWidth_of_le (by decide)
  have hcmd : ((cmdOf i).setWidth 8).toNat = (cmdOf i).toNat :=
    BitVec.toNat_setWidth_of_le (by decide)
  rw [answer_idPack_inRange (hnode.trans_lt (nodeOf i).isLt) (hcmd.trans_lt (cmdOf i).isLt), hnode, hcmd,
    mkIdent_fields]

/-- Settles O12: each law is an operand law (`nodeOf_mkIdent`, `maskRaw_toNat`, `mkIdent_fields`) read off
the answers. -/
theorem codecLaws : Obligations.CodecLaws := by
  intro s s'
  refine ⟨fun n c hn hc => ?_, fun n c hout => ?_, fun w hw => ?_, fun i => ?_⟩
  · exact ⟨_, answer_idPack_inRange hn hc s, rfl, congrArg some (nodeOf_mkIdent _ _ hn hc),
      congrArg some (cmdOf_mkIdent _ _ hn hc)⟩
  · rw [answer_idPack_outOfRange hout, Option.map_some]
  · have hraw : (maskRaw w).toNat = w.toNat := by rw [maskRaw_toNat, Nat.mod_eq_of_lt hw]
    have hmask : w.toNat &&& 0x1F = w.toNat % 32 := Nat.and_two_pow_sub_one_eq_mod _ 5
    exact ⟨_, answer_idFromRaw w s, by simp [hraw], by simp [hraw, Nat.shiftRight_eq_div_pow],
      by simp [hraw, hmask]⟩
  · exact ⟨_, _, answer_idNode i s, answer_idCmd i s, by rw [answer_idPack_fields, Option.map_some]⟩

end Sys2Proof.Machine
end

section
/-! The payload marshaller (41_payload_marshal.md): the number a packed payload is, the layout and the fields of
the fixed shapes (O15, O16), the raw endpoint payload (O17), the two round trips (O18, O19), the shapes a command
uses (O33) and the signed reading of a feed-forward field (O22). -/

namespace Sys2Proof.Machine

/-! ## A packed payload as a number (R43, R110) -/

/-- A byte written just above all the bits of the payload is added there (R41). -/
theorem setByte_toNat {p : PayBus} {i : Nat} (hi : i < 8) (hp : p.toNat < 2 ^ (8 * i)) (b : Byte) :
    (setByte p i b).toNat = p.toNat + 2 ^ (8 * i) * b.toNat := by
  have hclear : p &&& ~~~(0xFF#64 <<< (8 * i)) = p := by
    apply BitVec.eq_of_getLsbD_eq
    intro k hk
    by_cases hbelow : k < 8 * i
    · simp [hbelow, hk]
    · have hbit : p.getLsbD k = false :=
        Nat.testBit_lt_two_pow (hp.trans_le (Nat.pow_le_pow_right (by decide) (Nat.le_of_not_lt hbelow)))
      rw [BitVec.getLsbD_and, hbit, Bool.false_and]
  have hpow : 2 ^ (8 * i) * 2 ^ 8 ≤ 2 ^ 64 := by
    rw [← Nat.pow_add]
    exact Nat.pow_le_pow_right (by decide) (by omega)
  have hshift : (b.setWidth 64 <<< (8 * i)).toNat = b.toNat <<< (8 * i) := by
    have hb := b.isLt
    rw [BitVec.toNat_shiftLeft, BitVec.toNat_setWidth_of_le (by decide), Nat.mod_eq_of_lt]
    rw [Nat.shiftLeft_eq]
    nlinarith
  rw [setByte, hclear, BitVec.toNat_or, hshift, Nat.or_comm, ← Nat.shiftLeft_add_eq_or_of_lt hp,
    Nat.shiftLeft_eq, Nat.add_comm, Nat.mul_comm]

/-- A field written just above the bytes written so far is added in the bits above them (R43). -/
theorem payWrite_toNat {p : PayBus} {off n : Nat} (hend : off + n ≤ 8) (hp : p.toNat < 2 ^ (8 * off))
    (v : Nat) : (payWrite p off n v).toNat = p.toNat + 2 ^ (8 * off) * (v % 2 ^ (8 * n)) := by
  induction n with
  | zero => simp [payWrite, Nat.mod_one]
  | succ n ih =>
    have hwritten := ih (by omega)
    have hcut := Nat.mod_lt v (Nat.two_pow_pos (8 * n))
    have hpow : 2 ^ (8 * (off + n)) = 2 ^ (8 * off) * 2 ^ (8 * n) := by rw [Nat.mul_add, Nat.pow_add]
    have hbyte : (BitVec.ofNat 8 ((v >>> (8 * n)) &&& 0xFF)).toNat = v / 2 ^ (8 * n) % 2 ^ 8 := by
      rw [BitVec.toNat_ofNat, Nat.shiftRight_eq_div_pow, Nat.and_two_pow_sub_one_eq_mod _ 8, Nat.mod_mod]
    rw [payWrite, setByte_toNat (by omega) (by rw [hwritten, hpow]; nlinarith), hwritten, hbyte, hpow,
      Nat.mul_succ, Nat.pow_add, Nat.mod_mul]
    ring

/-- The fields follow one another from byte `off` on and end within the payload (R61). -/
def PackedFrom : Nat → List FieldSpec → Prop
  | off, [] => off ≤ 8
  | off, f :: fs => f.off = off ∧ PackedFrom (off + f.width) fs

/-- The operands of the fields, each cut to its width, put together little-endian (R110). -/
def packedNumber (ops : Fields) : List FieldSpec → Nat
  | [] => 0
  | f :: fs => (ops.get f.bus).toNat % 2 ^ (8 * f.width) + 2 ^ (8 * f.width) * packedNumber ops fs

theorem PackedFrom.le {off : Nat} {fs : List FieldSpec} (h : PackedFrom off fs) : off ≤ 8 := by
  induction fs generalizing off with
  | nil => exact h
  | cons f fs ih => exact (Nat.le_add_right _ _).trans (ih h.2)

theorem writeFields_toNat (ops : Fields) {off : Nat} {fs : List FieldSpec} (hfs : PackedFrom off fs)
    {p : PayBus} (hp : p.toNat < 2 ^ (8 * off)) :
    (writeFields ops fs p).toNat = p.toNat + 2 ^ (8 * off) * packedNumber ops fs := by
  induction fs generalizing off p with
  | nil => rfl
  | cons f fs ih =>
    obtain ⟨rfl, hrest⟩ := hfs
    have hcut := Nat.mod_lt (ops.get f.bus).toNat (Nat.two_pow_pos (8 * f.width))
    have hpow : 2 ^ (8 * (f.off + f.width)) = 2 ^ (8 * f.off) * 2 ^ (8 * f.width) := by
      rw [Nat.mul_add, Nat.pow_add]
    have hwritten := payWrite_toNat hrest.le hp ((ops.get f.bus).toNat % 2 ^ (8 * f.width))
    rw [Nat.mod_mod] at hwritten
    rw [writeFields, ih hrest (by rw [hwritten, hpow]; nlinarith), hwritten, packedNumber, hpow]
    ring

theorem packedFrom_shapeFields (S : FixedShape) : PackedFrom 0 (shapeFields S) := by
  cases S <;> simp [shapeFields, PackedFrom]

/-- The payload of a shape is its operands packed little-endian (R110). -/
theorem encodeShape_toNat (S : FixedShape) (ops : Fields) :
    (encodeShape S ops).toNat = packedNumber ops (shapeFields S) := by
  rw [encodeShape, writeFields_toNat ops (packedFrom_shapeFields S) (by simp)]
  simp

/-! ## The layout of each shape (R117, R119, R121, R123) -/

theorem encodeShape_busvi (ops : Fields) : encodeShape .busvi ops = ops.v1 ++ ops.v0 := by
  apply BitVec.eq_of_toNat_eq
  simp only [encodeShape_toNat, shapeFields, packedNumber, Fields.get, append_toNat]
  omega

theorem encodeShape_inpos (ops : Fields) :
    encodeShape .inpos ops =
      (ops.v2.extractLsb' 0 16 ++ ops.v1.extractLsb' 0 16 : BitVec 32) ++ ops.v0 := by
  apply BitVec.eq_of_toNat_eq
  simp only [encodeShape_toNat, shapeFields, packedNumber, Fields.get, append_toNat, BitVec.extractLsb'_toNat,
    Nat.shiftRight_zero]
  omega

theorem encodeShape_hbeat (ops : Fields) :
    encodeShape .hbeat ops =
      ((0#8 ++ ops.v3.extractLsb' 0 8 : BitVec 16) ++
        (ops.v2.extractLsb' 0 8 ++ ops.v1.extractLsb' 0 8 : BitVec 16) : BitVec 32) ++ ops.v0 := by
  apply BitVec.eq_of_toNat_eq
  simp only [encodeShape_toNat, shapeFields, packedNumber, Fields.get, append_toNat, BitVec.extractLsb'_toNat,
    BitVec.toNat_ofNat, Nat.shiftRight_zero]
  omega

/-! ## The fixed encoders and decoders -/

theorem exec_cmdSendEncode (S : FixedShape) (ops : Fields) (s : State) :
    exec (cmdSendEncode S ops) s = .next (s.respond (encodedResponse S ops)) := by
  cases S <;> rfl

/-- Settles O15: the response of each encoder is its shape's payload, which is the concatenation. -/
theorem encodersLayOutFields : Obligations.EncodersLayOutFields := by
  intro a0 a1 a2 a3 s
  refine ⟨decode_encode (i := .encEmpty) rfl, decode_encode (i := .encBusvi a0 a1) rfl,
    decode_encode (i := .encInpos a0 a1 a2) rfl, decode_encode (i := .encHbeat a0 a1 a2 a3) rfl,
    exec_cmdSendEncode .empty {} s, ?_, ?_, ?_⟩
  · refine (exec_cmdSendEncode .busvi { v0 := a0, v1 := a1 } s).trans ?_
    rw [encodedResponse, encodeShape_busvi]
    rfl
  · refine (exec_cmdSendEncode .inpos { v0 := a0, v1 := a1, v2 := a2 } s).trans ?_
    rw [encodedResponse, encodeShape_inpos]
    rfl
  · refine (exec_cmdSendEncode .hbeat { v0 := a0, v1 := a1, v2 := a2, v3 := a3 } s).trans ?_
    rw [encodedResponse, encodeShape_hbeat]
    rfl

theorem exec_decInstr (S : FixedShape) (len : LenBus) (p : PayBus) (s : State) :
    exec (decInstr S len p) s = decodeFixed S len p s := by
  cases S <;> rfl

section
variable {len : LenBus} (S : FixedShape) (p : PayBus) (s : State)

theorem exec_decInstr_illegal (h : 8 < len.toNat) :
    exec (decInstr S len p) s = .next (s.respond { status := .illegalRequest }) :=
  (exec_decInstr S len p s).trans (withLen_illegal len s _ h)

theorem exec_decInstr_tooShort (h : len.toNat < shapeLen S) :
    exec (decInstr S len p) s = .next (s.respond { status := .malformedPayload }) := by
  rw [exec_decInstr, decodeFixed, withLen_legal len s _ (h.le.trans (shapeLen_le S))]
  simp [tooShort, h]

theorem exec_decInstr_fits (hlen : len.toNat ≤ 8) (hfit : shapeLen S ≤ len.toNat) :
    exec (decInstr S len p) s = .next (s.respond (decodeFixedInto S p { status := .ok })) := by
  rw [exec_decInstr, decodeFixed, withLen_legal len s _ hlen]
  simp [tooShort, Nat.not_lt.mpr hfit]

end

/-- Settles O16: the length tests are those of every fixed shape, and the fields are `decodeShape`'s. -/
theorem decodersExtractFields : Obligations.DecodersExtractFields := by
  intro len p s
  refine ⟨fun hlen => ?_, fun hlong => ?_, fun hshort => ?_, fun hshort => ?_, fun hlen => ?_, fun h8 => ?_,
    fun hfit hlen => ?_⟩
  · have hwf : lenOk len = true := decide_eq_true hlen
    exact ⟨decode_encode (i := .decEmpty len p) hwf, decode_encode (i := .decBusvi len p) hwf,
      decode_encode (i := .decInpos len p) hwf, decode_encode (i := .decHbeat len p) hwf⟩
  · exact ⟨exec_decInstr_illegal .empty p s hlong, exec_decInstr_illegal .busvi p s hlong,
      exec_decInstr_illegal .inpos p s hlong, exec_decInstr_illegal .hbeat p s hlong⟩
  · exact ⟨exec_decInstr_tooShort .busvi p s hshort, exec_decInstr_tooShort .inpos p s hshort⟩
  · exact exec_decInstr_tooShort .hbeat p s hshort
  · exact exec_decInstr_fits .empty p s hlen (Nat.zero_le _)
  · constructor
    · refine (exec_decInstr_fits .busvi p s h8.le h8.ge).trans ?_
      rw [decodeFixedInto, decodeShape_busvi]
      rfl
    · refine (exec_decInstr_fits .inpos p s h8.le h8.ge).trans ?_
      rw [decodeFixedInto, decodeShape_inpos]
      rfl
  · refine (exec_decInstr_fits .hbeat p s hlen hfit).trans ?_
    rw [decodeFixedInto, decodeShape_hbeat]
    rfl

/-! ## The raw endpoint payload (R125, R126) -/

theorem exec_encEndpt {len : LenBus} (hlen : len.toNat ≤ 8) (p : PayBus) (s : State) :
    exec (.encEndpt len p) s =
      .next (s.respond { status := .ok, lenOut := len, payOut := copyBytes p len.toNat }) :=
  withLen_legal len s _ hlen

theorem exec_decEndpt {len : LenBus} (hlen : len.toNat ≤ 8) (p : PayBus) (s : State) :
    exec (.decEndpt len p) s = .next (s.respond (decodeEndptInto len p { status := .ok })) :=
  withLen_legal len s _ hlen

/-- Settles O17: both copy the first LEN bytes, which are the payload modulo `2 ^ (8 * LEN)`. -/
theorem endpointPayloadIsRaw : Obligations.EndpointPayloadIsRaw := by
  intro len p s
  refine ⟨fun hlen => ?_, fun hlong => ⟨withLen_illegal len s _ hlong, withLen_illegal len s _ hlong⟩⟩
  have hwf : lenOk len = true := decide_eq_true hlen
  rw [← copyBytes_eq p len.toNat hlen]
  exact ⟨decode_encode (i := .encEndpt len p) hwf, decode_encode (i := .decEndpt len p) hwf,
    exec_encEndpt hlen p s, exec_decEndpt hlen p s⟩

/-! ## The round trips (R113, R114) -/

/-- The operands of the fields on their buses, each cut to its width (R113). -/
def cutOperands (ops : Fields) : List FieldSpec → Fields → Fields
  | [], r => r
  | f :: fs, r =>
    cutOperands ops fs (r.set f.bus (BitVec.ofNat 32 ((ops.get f.bus).toNat % 2 ^ (8 * f.width))))

/-- Fields read from the number they were packed into are the operands, cut to their widths. -/
theorem readFields_of_packedNumber {ops : Fields} {p : PayBus} {off : Nat} {fs : List FieldSpec}
    (hfs : PackedFrom off fs) (hp : p.toNat / 2 ^ (8 * off) = packedNumber ops fs) (r : Fields) :
    readFields p fs r = cutOperands ops fs r := by
  induction fs generalizing off r with
  | nil => rfl
  | cons f fs ih =>
    obtain ⟨rfl, hrest⟩ := hfs
    rw [packedNumber] at hp
    have hfield : payRead p f.off f.width = (ops.get f.bus).toNat % 2 ^ (8 * f.width) := by
      rw [payRead_eq_bitField, hp, Nat.add_mul_mod_self_left, Nat.mod_mod]
    have habove : p.toNat / 2 ^ (8 * (f.off + f.width)) = packedNumber ops fs := by
      rw [Nat.mul_add, Nat.pow_add, ← Nat.div_div_eq_div_mul, hp,
        Nat.add_mul_div_left _ _ (Nat.two_pow_pos _), Nat.mod_div_self, Nat.zero_add]
    rw [readFields, cutOperands, hfield, ih hrest habove]

/-- R113 for the fixed shapes. -/
theorem decodeShape_encodeShape (S : FixedShape) (ops : Fields) :
    decodeShape S (encodeShape S ops) = cutOperands ops (shapeFields S) {} :=
  readFields_of_packedNumber (packedFrom_shapeFields S)
    (by rw [encodeShape_toNat, Nat.mul_zero, Nat.pow_zero, Nat.div_one]) {}

/-- A cut to the low `n` bits is a mask. -/
theorem ofNat_mod_two_pow (a : FieldBus) {n : Nat} (hn : n ≤ 32) :
    BitVec.ofNat 32 (a.toNat % 2 ^ n) = a &&& BitVec.ofNat 32 (2 ^ n - 1) := by
  have hpow : 2 ^ n ≤ 2 ^ 32 := Nat.pow_le_pow_right (by decide) hn
  have hmask : 2 ^ n - 1 < 2 ^ 32 := by omega
  have hcut : a.toNat % 2 ^ n < 2 ^ 32 := (Nat.mod_lt _ (Nat.two_pow_pos n)).trans_le hpow
  apply BitVec.eq_of_toNat_eq
  rw [BitVec.toNat_and, BitVec.toNat_ofNat, BitVec.toNat_ofNat, Nat.mod_eq_of_lt hmask, Nat.mod_eq_of_lt hcut,
    Nat.and_two_pow_sub_one_eq_mod]

/-- A field as wide as its bus is not cut. -/
theorem ofNat_mod_bus (a : FieldBus) : BitVec.ofNat 32 (a.toNat % 2 ^ (8 * 4)) = a := by
  rw [Nat.mod_eq_of_lt a.isLt, BitVec.ofNat_toNat, BitVec.setWidth_eq]

theorem cutOperands_busvi (ops : Fields) :
    cutOperands ops (shapeFields .busvi) {} = { v0 := ops.v0, v1 := ops.v1 } := by
  simp only [shapeFields, cutOperands, Fields.get, Fields.set, ofNat_mod_bus]

theorem cutOperands_inpos (ops : Fields) :
    cutOperands ops (shapeFields .inpos) {} =
      { v0 := ops.v0, v1 := ops.v1 &&& 0xFFFF, v2 := ops.v2 &&& 0xFFFF } := by
  have hcut (a : FieldBus) : BitVec.ofNat 32 (a.toNat % 2 ^ (8 * 2)) = a &&& 0xFFFF :=
    ofNat_mod_two_pow a (n := 16) (by decide)
  simp only [shapeFields, cutOperands, Fields.get, Fields.set, ofNat_mod_bus, hcut]

theorem cutOperands_hbeat (ops : Fields) :
    cutOperands ops (shapeFields .hbeat) {} =
      { v0 := ops.v0, v1 := ops.v1 &&& 0xFF, v2 := ops.v2 &&& 0xFF, v3 := ops.v3 &&& 0xFF } := by
  have hcut (a : FieldBus) : BitVec.ofNat 32 (a.toNat % 2 ^ (8 * 1)) = a &&& 0xFF :=
    ofNat_mod_two_pow a (n := 8) (by decide)
  simp only [shapeFields, cutOperands, Fields.get, Fields.set, ofNat_mod_bus, hcut]

/-- R114 for the fixed shapes: the bit fields packed again are the payload's first `shapeLen S` bytes. -/
theorem encodeShape_decodeShape (S : FixedShape) (p : PayBus) :
    encodeShape S (decodeShape S p) = copyBytes p (shapeLen S) := by
  rw [copyBytes_eq p _ (shapeLen_le S)]
  apply BitVec.eq_of_toNat_eq
  have hp := p.isLt
  rw [encodeShape_toNat, BitVec.toNat_ofNat]
  cases S with
  | empty => simp [shapeFields, packedNumber, shapeLen, Nat.mod_one]
  | busvi =>
    simp only [shapeFields, packedNumber, decodeShape_busvi, Fields.get, shapeLen, BitVec.extractLsb'_toNat,
      Nat.shiftRight_eq_div_pow]
    omega
  | inpos =>
    simp only [shapeFields, packedNumber, decodeShape_inpos, Fields.get, shapeLen, BitVec.extractLsb'_toNat,
      BitVec.toNat_setWidth, Nat.shiftRight_eq_div_pow]
    omega
  | hbeat =>
    simp only [shapeFields, packedNumber, decodeShape_hbeat, Fields.get, shapeLen, BitVec.extractLsb'_toNat,
      BitVec.toNat_setWidth, Nat.shiftRight_eq_div_pow]
    omega

/-- The decoder takes what the encoder answered, and its fields are the operands, cut (R113). -/
theorem answer_dec_encoded (S : FixedShape) (ops : Fields) (s : State) :
    answer (decInstr S (encodedResponse S ops).lenOut (encodedResponse S ops).payOut) s =
      some { Response.withFields { status := .ok } (cutOperands ops (shapeFields S) {}) with
        shapeOut := shapeCode S } := by
  have hlen : (encodedResponse S ops).lenOut.toNat = shapeLen S := toNat_shapeLen S
  rw [answer_decInstr _ s (hlen.trans_le (shapeLen_le S)) hlen.ge, decodeFixedInto, encodedResponse,
    decodeShape_encodeShape]

/-- Settles O18, by `decodeShape_encodeShape`; for ENDPT a copy of a copy keeps the first LEN bytes. -/
theorem encodeThenDecodeGivesOperands : Obligations.EncodeThenDecodeGivesOperands := by
  intro s s'
  refine ⟨⟨_, answer_cmdSendEncode .empty {} s, answer_dec_encoded .empty {} s'⟩, fun a0 a1 => ?_,
    fun a0 a1 a2 => ?_, fun a0 a1 a2 a3 => ?_, fun len p hlen => ?_⟩
  · refine ⟨_, answer_cmdSendEncode .busvi { v0 := a0, v1 := a1 } s, (answer_dec_encoded .busvi _ s').trans ?_⟩
    rw [cutOperands_busvi]
    rfl
  · refine ⟨_, answer_cmdSendEncode .inpos { v0 := a0, v1 := a1, v2 := a2 } s,
      (answer_dec_encoded .inpos _ s').trans ?_⟩
    rw [cutOperands_inpos]
    rfl
  · refine ⟨_, answer_cmdSendEncode .hbeat { v0 := a0, v1 := a1, v2 := a2, v3 := a3 } s,
      (answer_dec_encoded .hbeat _ s').trans ?_⟩
    rw [cutOperands_hbeat]
    rfl
  · exact ⟨_, _, answer_of_exec (exec_encEndpt hlen p s), answer_of_exec (exec_decEndpt hlen _ s'), rfl, rfl,
      fun j hj => (byteAt_copyBytes_of_lt _ hlen j hj).trans (byteAt_copyBytes_of_lt p hlen j hj)⟩

/-- The decoder answers fields that the encoder turns into the payload's own bytes (R114). -/
theorem exists_answer_dec_enc (S : FixedShape) {len : LenBus} (p : PayBus) (s s' : State)
    (hlen : len.toNat ≤ 8) (hfit : shapeLen S ≤ len.toNat) :
    ∃ r, answer (decInstr S len p) s = some r ∧
      answer (cmdSendEncode S r.fields) s' =
        some { status := .ok, lenOut := BitVec.ofNat 4 (shapeLen S), payOut := copyBytes p (shapeLen S) } := by
  have hfields : (decodeFixedInto S p { status := .ok }).fields = decodeShape S p := rfl
  refine ⟨_, answer_decInstr p s hlen hfit, ?_⟩
  rw [answer_cmdSendEncode, hfields, encodedResponse, encodeShape_decodeShape]

/-- Settles O19, by `encodeShape_decodeShape`; an 8-byte shape gives the whole payload. -/
theorem decodeThenEncodeGivesBytes : Obligations.DecodeThenEncodeGivesBytes := by
  intro s s' len p hlen
  have h7 : copyBytes p 7 = BitVec.ofNat 64 (p.toNat % 2 ^ 56) := copyBytes_eq p 7 (by decide)
  have h8 : copyBytes p 8 = p := by
    rw [copyBytes_eq p 8 (by decide), Nat.mod_eq_of_lt p.isLt, BitVec.ofNat_toNat, BitVec.setWidth_eq]
  refine ⟨answer_cmdSendEncode .empty {} s', fun hfit => ?_, fun hfit => ?_, fun hfit => ?_⟩
  · obtain ⟨r, hdec, henc⟩ := exists_answer_dec_enc .busvi p s s' hlen hfit
    rw [shapeLen, h8] at henc
    exact ⟨r, hdec, henc⟩
  · obtain ⟨r, hdec, henc⟩ := exists_answer_dec_enc .inpos p s s' hlen hfit
    rw [shapeLen, h8] at henc
    exact ⟨r, hdec, henc⟩
  · obtain ⟨r, hdec, henc⟩ := exists_answer_dec_enc .hbeat p s s' hlen hfit
    rw [shapeLen, h7] at henc
    exact ⟨r, hdec, henc⟩

/-! ## The shape of a command's payload (R127) -/

/-- The end of the receive path keeps the shape of the decoded fields. -/
theorem shapeOut_of_deliver {i : Instr} {j : Ident} {telemetry : Bool} {r d : Response} {s : State}
    (hexec : exec i s = deliver j telemetry r s) (h : answer i s = some d) : d.shapeOut = r.shapeOut := by
  rcases deliver_cases j telemetry r s with ⟨-, hx⟩ | ⟨-, -, hx⟩ | ⟨-, -, hx⟩ <;>
    cases (answer_of_exec (hexec.trans hx)).symm.trans h <;> rfl

/-- A decoded frame carries the tag of its command's inbound shape (R127, R135). -/
theorem recv_shapeOut {r x : Bool} {i : Ident} {len : LenBus} {p : PayBus} {s : State} {d : Response}
    (h : answer (.recv r x i len p) s = some d)
    (hd : d.status ∈ [Status.completed, .unsolicited, .discarded]) :
    ∃ S, inboundShape s.cfg (cmdOf i) = some S ∧ d.shapeOut = S.code := by
  have hexec : exec (.recv r x i len p) s = execRecv r x i len p s := rfl
  -- a request that ends otherwise reports another status
  have hundecoded {e : Response} (he : e.status ∉ [Status.completed, .unsolicited, .discarded])
      (hx : execRecv r x i len p s = .next (s.respond e)) : False := by
    cases (answer_of_exec (hexec.trans hx)).symm.trans h
    exact he hd
  rcases execRecv_cases r x i len p s with
    ⟨-, hx⟩ | ⟨-, -, hx⟩ | ⟨-, -, -, -, hx⟩ | ⟨-, -, -, -, -, hx⟩ | ⟨-, -, -, -, hclass, hx⟩ |
    ⟨_, -, -, -, -, -, -, hx⟩ | ⟨entry, -, -, -, -, hclass, -, hx⟩
  · exact (hundecoded (by decide) hx).elim
  · exact (hundecoded (by decide) hx).elim
  · exact (hundecoded (by simp [frameReport]) hx).elim
  · exact (hundecoded (by simp [frameReport]) hx).elim
  · exact ⟨.endpt, by simp [inboundShape, hclass], shapeOut_of_deliver (hexec.trans hx) h⟩
  · exact (hundecoded (by simp [frameReport]) hx).elim
  · exact ⟨.fixed entry.rxShape, by simp [inboundShape, hclass], shapeOut_of_deliver (hexec.trans hx) h⟩

theorem classify_of_entry {cfg : CmdConfig} {c : CmdId} {entry : CmdEntry} (h : lookup cfg c = some entry) :
    classify cfg c = .fixed entry := by
  simp [classify, h]

theorem classify_of_endpoint {cfg : CmdConfig} {c : CmdId} (h : lookup cfg c = none)
    (hrange : isEndpoint cfg c = true) : classify cfg c = .endpoint := by
  simp [classify, h, hrange]

/-- The host encodes with the tx_shape of the command's entry, if it has one (R127). -/
theorem hostEncode_of_entry {cfg : CmdConfig} {c : CmdId} {entry : CmdEntry} (h : lookup cfg c = some entry)
    (ops : Fields) (len : LenBus) (p : PayBus) :
    hostEncode cfg c ops len p = entry.txShape.map fun S => cmdSendEncode S ops := by
  cases hshape : entry.txShape <;> simp [hostEncode, outboundShape, classify_of_entry h, hshape]

/-- Settles O33: RECV by its cases, and the host's encoder by the class of the command. -/
theorem commandsUseTheirShapes : Obligations.CommandsUseTheirShapes := by
  intro i len p s
  refine ⟨fun r x d h hd => recv_shapeOut h hd, fun entry hentry => ⟨?_, fun S ops hS => ?_, fun ops hnone => ?_⟩,
    fun hnone hlo hhi => ?_⟩
  · rw [inboundShape, classify_of_entry hentry]
  · exact ⟨_, _, by rw [hostEncode_of_entry hentry, hS, Option.map_some], answer_cmdSendEncode S ops s, rfl,
      toNat_shapeLen S, rfl⟩
  · rw [hostEncode_of_entry hentry, hnone, Option.map_none]
  · have hclass := classify_of_endpoint hnone ((isEndpoint_iff _ _).mpr ⟨hlo, hhi⟩)
    exact ⟨by rw [inboundShape, hclass], fun ops => by rw [hostEncode, outboundShape, hclass]⟩

/-! ## The signed reading (R11, R116) -/

/-- `sint16` is the two's-complement value. -/
theorem sint16_eq_toInt (b : BitVec 16) : sint16 b = b.toInt := by
  rw [sint16, BitVec.toInt_eq_msb_cond, BitVec.msb_eq_getLsbD_last]
  rfl

/-- Settles O22, by the two's-complement value of a 16-bit pattern. -/
theorem feedForwardReading : Obligations.FeedForwardReading := by
  intro b
  have hlo : -2 ^ 15 ≤ b.toInt := BitVec.le_toInt b
  have hhi : b.toInt < 2 ^ 15 := BitVec.toInt_lt
  have hmod : b.toInt % 65536 = b.toNat := by
    rw [BitVec.toInt_eq_toNat_cond]
    split <;> omega
  rw [feedForward, sint16_eq_toInt]
  exact ⟨by omega, by omega, hmod, div_mul_cancel₀ _ (by norm_num)⟩

end Sys2Proof.Machine
end

section
/-! The dispatcher (42_dispatch.md): the send path (O23 to O25), the receive path (O27 to O32), the lifecycle of
a pending request with the late-reply hazard (O37 to O39) and the subscriptions (O41). -/

namespace Sys2Proof.Machine

/-! ## SEND on every operand (R130) -/

theorem exec_send_illegal (e r : Bool) (n c : IdBus) {len : LenBus} (p : PayBus) (s : State)
    (hlong : 8 < len.toNat) :
    exec (.send e r n c len p) s = .next (s.respond { status := .illegalRequest }) :=
  withLen_illegal len s _ hlong

section
variable {n c : IdBus} {len : LenBus} {s : State}

theorem exec_send_outOfRange (e r : Bool) (p : PayBus) (s : State) (hlen : len.toNat ≤ 8)
    (hout : 64 ≤ n.toNat ∨ 32 ≤ c.toNat) :
    exec (.send e r n c len p) s = .next (s.respond { status := .outOfRange }) :=
  (withLen_legal len s _ hlen).trans (withPair_outOfRange n c s _ hout)

/-- A SEND that passes the checks of its operands is BUSY or emits its frame. -/
theorem exec_send_inRange (e r : Bool) (p : PayBus) (s : State) (hlen : len.toNat ≤ 8) (hn : n.toNat < 64)
    (hc : c.toNat < 32) :
    exec (.send e r n c len p) s =
      if e && s.pendAt (mkIdent n.toNat c.toNat) then raise .busy s
      else finish
        (emitInto (mkIdent n.toNat c.toNat) r len p { status := .ok, idOut := mkIdent n.toNat c.toNat })
        (if e then s.setPend (mkIdent n.toNat c.toNat) else s) :=
  (withLen_legal len s _ hlen).trans (withPair_inRange n c s _ hn hc)

theorem exec_send_busy (r : Bool) (p : PayBus) (hlen : len.toNat ≤ 8) (hn : n.toNat < 64) (hc : c.toNat < 32)
    (hbusy : s.pendAt (mkIdent n.toNat c.toNat) = true) :
    exec (.send true r n c len p) s = .next (s.respond { status := .busy }) := by
  simp [exec_send_inRange true r p s hlen hn hc, hbusy]

theorem exec_send_free {e : Bool} (r : Bool) (p : PayBus) (hlen : len.toNat ≤ 8) (hn : n.toNat < 64)
    (hc : c.toNat < 32) (hfree : e = false ∨ s.pendAt (mkIdent n.toNat c.toNat) = false) :
    exec (.send e r n c len p) s =
      .next ((if e then s.setPend (mkIdent n.toNat c.toNat) else s).respond
        (emitInto (mkIdent n.toNat c.toNat) r len p
          { status := .ok, idOut := mkIdent n.toNat c.toNat })) := by
  have hnot : (e && s.pendAt (mkIdent n.toNat c.toNat)) = false := by
    rcases hfree with rfl | hfree
    · rfl
    · rw [hfree, Bool.and_false]
  simp [exec_send_inRange e r p s hlen hn hc, hnot]

end

/-- The control word of a SEND as a number (R71, R72). -/
theorem ctrlWord_send (e r : Bool) :
    ctrlWord 0x10 e r false = BitVec.ofNat 16 (0x10 + 0x20 * e.toNat + 0x40 * r.toNat) := by
  cases e <;> cases r <;> rfl

/-- The control word of a RECV as a number (R71, R72). -/
theorem ctrlWord_recv (r x : Bool) :
    ctrlWord 0x11 false r x = BitVec.ofNat 16 (0x11 + 0x40 * r.toNat + 0x80 * x.toNat) := by
  cases r <;> cases x <;> rfl

/-- Settles O23: one equation for each branch of R130, with the identifier and the frame's bytes as numbers. -/
theorem sendEmitsFrameAndOpensRequest : Obligations.SendEmitsFrameAndOpensRequest := by
  intro e r n c len p s i
  refine ⟨fun hlen => ?_, exec_send_illegal e r n c p s, exec_send_outOfRange e r p s,
    fun hlen hn hc he hbusy => ?_, fun hlen hn hc hfree => ?_⟩
  · rw [← ctrlWord_send]
    exact decode_encode (i := .send e r n c len p) (decide_eq_true hlen)
  · subst he
    exact exec_send_busy r p hlen hn hc (mkIdent_eq_ofNat hn hc ▸ hbusy)
  · have hi : mkIdent n.toNat c.toNat = i := mkIdent_eq_ofNat hn hc
    have hsend := exec_send_free r p hlen hn hc (hi ▸ hfree)
    rw [hi, emitInto, copyBytes_eq p len.toNat hlen] at hsend
    refine ⟨_, hsend, ?_, ?_, fun j => ?_⟩
    · cases e <;> rfl
    · rintro rfl
      rfl
    · cases e <;> by_cases hj : j = i <;> simp [hj]

/-- A SEND with E = 1 that succeeded has a pair in range and has set its pending bit (R23, R130). -/
theorem exec_send_opened {r : Bool} {n c : IdBus} {len : LenBus} {p : PayBus} {s t : State} {d : Response}
    (h : exec (.send true r n c len p) s = .next t) (hd : t.response = some d) (hok : d.status = .ok) :
    n.toNat < 64 ∧ c.toNat < 32 ∧ t = (s.setPend (mkIdent n.toNat c.toNat)).respond d := by
  rcases exec_cases _ s t d h hd with
    ⟨-, -, -, -, hnotOk⟩ | ⟨_, _, _, _, _, hi, hn, hc, -, -, ht, -⟩ | ⟨_, _, _, hi, -⟩ |
    ⟨_, _, ⟨hi, -⟩ | ⟨hi, -⟩, -⟩ | ⟨_, -, -, ⟨hi, -⟩ | ⟨hi, -⟩⟩
  · exact absurd hok (hnotOk r n c len p rfl)
  · cases hi
    exact ⟨hn, hc, ht⟩
  all_goals cases hi

/-- Settles O24: the first SEND left the pair in range and pending. -/
theorem secondSendOfPendingPairIsBusy : Obligations.SecondSendOfPendingPairIsBusy := by
  intro r r' n c len len' p p' s t d h hd hok hlen'
  obtain ⟨hn, hc, rfl⟩ := exec_send_opened h hd hok
  exact exec_send_busy r' p' hlen' hn hc (by simp)

/-! ## Frames on the transmit interface (R131) -/

/-- Only SEND's row of R75 lists the transmit fields. -/
theorem send_of_txValid_onlyMaySet {i : Instr} {d : Response} (h : (onlyMaySet i d).txValid = true) :
    ∃ e r n c len p, i = .send e r n c len p := by
  cases i with
  | send e r n c len p => exact ⟨e, r, n, c, len, p, rfl⟩
  | _ => cases h

theorem txFrame_eq_some_iff (d : Response) (f : Frame) :
    d.txFrame = some f ↔ d.txValid = true ∧
      f = { format := .standard, rtr := d.txRtr, id := d.txId, len := d.txLen, data := d.txData } := by
  cases hvalid : d.txValid <;> simp [Response.txFrame, hvalid, eq_comm]

/-- Settles O25: a response that hands over a frame is in SEND's row, and SEND's only one with a frame is the
last of R130. -/
theorem onlySendEmitsFrames : Obligations.OnlySendEmitsFrames := by
  intro i s d f h hf
  obtain ⟨hvalid, rfl⟩ := (txFrame_eq_some_iff d f).mp hf
  have hrow := onlyListedResponseFieldsAreSet i s d h
  obtain ⟨e, r, n, c, len, p, rfl⟩ := send_of_txValid_onlyMaySet (hrow ▸ hvalid)
  have hexec : exec (.send e r n c len p) s = execSend e r n c len p s := rfl
  have hanswer {t : State} {q : Response} (hx : execSend e r n c len p s = .next (t.respond q)) : q = d :=
    Option.some.inj ((answer_of_exec (hexec.trans hx)).symm.trans h)
  have hframe (hlen : len.toNat ≤ 8) (hn : n.toNat < 64) (hc : c.toNat < 32) :
      ({ format := .standard, rtr := r, id := mkIdent n.toNat c.toNat, len := len,
         data := copyBytes p len.toNat } : Frame) =
        { format := .standard, rtr := r, id := BitVec.ofNat 11 (32 * n.toNat + c.toNat), len := len,
          data := BitVec.ofNat 64 (p.toNat % 2 ^ (8 * len.toNat)) } := by
    rw [mkIdent_eq_ofNat hn hc, copyBytes_eq p _ hlen]
  rcases execSend_cases e r n c len p s with
    ⟨-, hx⟩ | ⟨-, -, hx⟩ | ⟨-, -, -, -, -, hx⟩ | ⟨hlen, hn, hc, -, -, hx⟩ | ⟨hlen, hn, hc, -, hx⟩ <;>
    cases hanswer hx
  · cases hvalid
  · cases hvalid
  · cases hvalid
  · exact ⟨e, r, n, c, len, p, rfl, rfl, hframe hlen hn hc⟩
  · exact ⟨e, r, n, c, len, p, rfl, rfl, hframe hlen hn hc⟩

/-! ## RECV, test by test (R135, R136) -/

theorem exec_recv_illegal (r x : Bool) (i : Ident) {len : LenBus} (p : PayBus) (s : State)
    (hlong : 8 < len.toNat) :
    exec (.recv r x i len p) s = .next (s.respond { status := .illegalRequest }) :=
  withLen_illegal len s _ hlong

theorem exec_recv_otherFormat {r x : Bool} (i : Ident) {len : LenBus} (p : PayBus) (s : State)
    (hlen : len.toNat ≤ 8) (hformat : x = true ∨ r = true) :
    exec (.recv r x i len p) s = .next (s.respond { status := .ignoredFormat }) := by
  have hother : (x || r) = true := (Bool.or_eq_true x r).mpr hformat
  simp [exec, execRecv, withLen_legal len s _ hlen, hother]

/-- Settles O27: the LEN check, then the format test. -/
theorem recvIgnoresOtherFormats : Obligations.RecvIgnoresOtherFormats := by
  intro r x i len p s
  refine ⟨fun hlen => ?_, exec_recv_illegal r x i p s, exec_recv_otherFormat i p s⟩
  rw [← ctrlWord_recv]
  exact decode_encode (i := .recv r x i len p) (decide_eq_true hlen)

/-! ### A standard data frame of legal length -/

section
variable {i : Ident} {len : LenBus} {s : State}

theorem exec_recv_inactive (p : PayBus) (hlen : len.toNat ≤ 8) (hinactive : s.active (nodeOf i) = false) :
    exec (.recv false false i len p) s = .next (s.respond (frameReport .ignoredNode i)) := by
  simp [exec, execRecv, withLen_legal len s _ hlen, hinactive]

theorem exec_recv_unknown (p : PayBus) (hlen : len.toNat ≤ 8) (hactive : s.active (nodeOf i) = true)
    (hclass : classify s.cfg (cmdOf i) = .unknown) :
    exec (.recv false false i len p) s = .next (s.respond (frameReport .unknownCommand i)) := by
  simp [exec, execRecv, withLen_legal len s _ hlen, hactive, hclass]

theorem exec_recv_endpoint (p : PayBus) (hlen : len.toNat ≤ 8) (hactive : s.active (nodeOf i) = true)
    (hnone : lookup s.cfg (cmdOf i) = none) (hlo : s.cfg.epLo.toNat ≤ (cmdOf i).toNat)
    (hhi : (cmdOf i).toNat ≤ s.cfg.epHi.toNat) :
    exec (.recv false false i len p) s =
      deliver i false (decodeEndptInto len p (frameReport .discarded i)) s := by
  have hclass := classify_of_endpoint hnone ((isEndpoint_iff s.cfg (cmdOf i)).mpr ⟨hlo, hhi⟩)
  simp [exec, execRecv, withLen_legal len s _ hlen, hactive, hclass]

theorem exec_recv_tooShort (p : PayBus) (hlen : len.toNat ≤ 8) (hactive : s.active (nodeOf i) = true)
    {entry : CmdEntry} (hentry : lookup s.cfg (cmdOf i) = some entry)
    (hshort : len.toNat < shapeLen entry.rxShape) :
    exec (.recv false false i len p) s = .next (s.respond (frameReport .malformedPayload i)) := by
  simp [exec, execRecv, withLen_legal len s _ hlen, hactive, classify_of_entry hentry, tooShort, hshort]

theorem exec_recv_fits (p : PayBus) (hlen : len.toNat ≤ 8) (hactive : s.active (nodeOf i) = true)
    {entry : CmdEntry} (hentry : lookup s.cfg (cmdOf i) = some entry)
    (hfit : shapeLen entry.rxShape ≤ len.toNat) :
    exec (.recv false false i len p) s =
      deliver i entry.telemetry (decodeFixedInto entry.rxShape p (frameReport .discarded i)) s := by
  simp [exec, execRecv, withLen_legal len s _ hlen, hactive, classify_of_entry hentry, tooShort,
    Nat.not_lt.mpr hfit]

end

/-! ### The end of the receive path (R141 to R143) -/

theorem deliver_pending {i : Ident} {s : State} (telemetry : Bool) (r : Response) (h : s.pendAt i = true) :
    deliver i telemetry r s = .next ((s.clearPend i).respond { r with status := .completed }) := by
  simp [deliver, h]

theorem deliver_notPending {i : Ident} {s : State} (telemetry : Bool) (r : Response)
    (h : s.pendAt i = false) :
    deliver i telemetry r s =
      .next (s.respond { r with status := if telemetry then .unsolicited else .discarded }) := by
  cases telemetry <;> simp [deliver, h]

/-! ## Frames that complete nothing (R138 to R140) -/

theorem nodeOf_eq_nodeOf_iff (i j : Ident) : nodeOf i = nodeOf j ↔ i.toNat / 32 = j.toNat / 32 := by
  rw [← BitVec.toNat_inj, nodeOf_toNat, nodeOf_toNat]

/-- A node is inactive when it is not subscribed and none of its identifiers is pending (R25). -/
theorem active_eq_false {s : State} {n : NodeId} (hsub : s.subAt n = false)
    (hpend : ∀ i, nodeOf i = n → s.pendAt i = false) : s.active n = false := by
  refine Bool.eq_false_iff.mpr fun h => ?_
  rcases (active_iff s n).mp h with hsubscribed | ⟨i, hi, hpending⟩
  · simp [hsub] at hsubscribed
  · simp [hpend i hi] at hpending

/-- Settles O28: the node filter comes before every test of the command. -/
theorem recvIgnoresInactiveNodes : Obligations.RecvIgnoresInactiveNodes := by
  intro i len p s hlen hsub hpend
  rw [← nodeOf_eq_ofNat] at hsub ⊢
  rw [← cmdOf_eq_ofNat]
  exact exec_recv_inactive p hlen
    (active_eq_false hsub fun j hj => hpend j ((nodeOf_eq_nodeOf_iff j i).mp hj))

theorem classify_of_unknown {cfg : CmdConfig} {c : CmdId} (h : lookup cfg c = none)
    (hrange : isEndpoint cfg c = false) : classify cfg c = .unknown := by
  simp [classify, h, hrange]

/-- Settles O29: the class of the command is looked at before the pending bit. -/
theorem recvReportsUnknownCommand : Obligations.RecvReportsUnknownCommand := by
  intro i len p s hlen hactive hnone hout
  have hrange : isEndpoint s.cfg (cmdOf i) = false :=
    Bool.eq_false_iff.mpr fun h => by
      obtain ⟨hlo, hhi⟩ := (isEndpoint_iff _ _).mp h
      omega
  exact exec_recv_unknown p hlen ((active_iff _ _).mpr hactive) (classify_of_unknown hnone hrange)

/-- Settles O30: the length test is before the pending match, and the endpoint branch has none. -/
theorem recvReportsMalformedPayload : Obligations.RecvReportsMalformedPayload := by
  intro i len p s hlen hactive
  have hnode := (active_iff _ _).mpr hactive
  refine ⟨fun entry hentry hshort => exec_recv_tooShort p hlen hnode hentry hshort,
    fun hnone hlo hhi => ?_⟩
  have hexec := exec_recv_endpoint p hlen hnode hnone hlo hhi
  cases hp : s.pendAt i with
  | true => exact ⟨_, answer_of_exec (hexec.trans (deliver_pending _ _ hp)), rfl⟩
  | false => exact ⟨_, answer_of_exec (hexec.trans (deliver_notPending _ _ hp)), rfl⟩

/-! ## Decoded frames (R141 to R143) -/

theorem answer_decEndpt {len : LenBus} (p : PayBus) (s : State) (hlen : len.toNat ≤ 8) :
    answer (.decEndpt len p) s = some (decodeEndptInto len p { status := .ok }) :=
  answer_of_exec (exec_decEndpt hlen p s)

theorem pendAt_clearPend_ite (s : State) (i j : Ident) :
    (s.clearPend i).pendAt j = if j = i then false else s.pendAt j := by
  by_cases h : j = i <;> simp [h]

/-- No frame of a pair that is not pending is COMPLETED (R141). -/
theorem recv_not_completed {r x : Bool} {i : Ident} {len : LenBus} {p : PayBus} {s : State} {d : Response}
    (hp : s.pendAt i = false) (h : answer (.recv r x i len p) s = some d) : d.status ≠ .completed := by
  obtain ⟨t, q, hexec, -⟩ := endsSound_exec (.recv r x i len p) s
  cases (answer_of_exec hexec).symm.trans h
  rcases exec_recv_cases hexec rfl with ⟨hne, -⟩ | ⟨hpending, -⟩
  · exact hne
  · simp [hp] at hpending

/-- Settles O31: the pending request makes the node active, and both classes end in `deliver`. -/
theorem recvCompletesPendingRequest : Obligations.RecvCompletesPendingRequest := by
  intro i len p s s' hlen hp
  have hactive := active_of_pending s i hp
  have hcleared (d : Response) : ((s.clearPend i).respond d).pendAt i = false := by simp
  refine ⟨fun entry hentry hfit => ?_, fun hnone hlo hhi => ?_⟩
  · exact ⟨_, _, answer_decInstr p s' hlen hfit, rfl,
      (exec_recv_fits p hlen hactive hentry hfit).trans (deliver_pending _ _ hp), rfl,
      pendAt_clearPend_ite s i, fun _ _ _ _ _ => recv_not_completed (hcleared _)⟩
  · exact ⟨_, _, answer_decEndpt p s' hlen, rfl,
      (exec_recv_endpoint p hlen hactive hnone hlo hhi).trans (deliver_pending _ _ hp), rfl,
      pendAt_clearPend_ite s i, fun _ _ _ _ _ => recv_not_completed (hcleared _)⟩

/-- Settles O32: both classes end in `deliver`, an endpoint command as one without telemetry. -/
theorem recvReportsUnrequestedFrames : Obligations.RecvReportsUnrequestedFrames := by
  intro i len p s s' hlen hp hactive
  have hnode := (active_iff _ _).mpr hactive
  refine ⟨fun entry hentry hfit => ?_, fun hnone hlo hhi => ?_⟩
  · exact ⟨_, answer_decInstr p s' hlen hfit, rfl,
      (exec_recv_fits p hlen hnode hentry hfit).trans (deliver_notPending _ _ hp)⟩
  · exact ⟨_, answer_decEndpt p s' hlen, rfl,
      (exec_recv_endpoint p hlen hnode hnone hlo hhi).trans (deliver_notPending _ _ hp)⟩

/-! ## CANCEL and TIMEOUT (R145, R146) -/

section
variable {n c : IdBus} {s : State}

theorem endPending_outOfRange (terminal : Status) (s : State) (hout : 64 ≤ n.toNat ∨ 32 ≤ c.toNat) :
    endPending terminal n c s = .next (s.respond { status := .outOfRange }) :=
  withPair_outOfRange n c s _ hout

theorem endPending_notPending (terminal : Status) (hn : n.toNat < 64) (hc : c.toNat < 32)
    (hp : s.pendAt (mkIdent n.toNat c.toNat) = false) :
    endPending terminal n c s =
      .next (s.respond { status := .notPending, idOut := mkIdent n.toNat c.toNat }) := by
  rw [endPending, withPair_inRange n c s _ hn hc]
  simp [hp]

theorem endPending_pending (terminal : Status) (hn : n.toNat < 64) (hc : c.toNat < 32)
    (hp : s.pendAt (mkIdent n.toNat c.toNat) = true) :
    endPending terminal n c s =
      .next ((s.clearPend (mkIdent n.toNat c.toNat)).respond
        { status := terminal, idOut := mkIdent n.toNat c.toNat }) := by
  rw [endPending, withPair_inRange n c s _ hn hc]
  simp [hp]

end

/-- Settles O37: the two operations are `endPending` with their own terminal status. -/
theorem cancelAndTimeoutEndRequest : Obligations.CancelAndTimeoutEndRequest := by
  intro n c s i
  have hi (hn : n.toNat < 64) (hc : c.toNat < 32) : mkIdent n.toNat c.toNat = i := mkIdent_eq_ofNat hn hc
  refine ⟨decode_encode (i := .cancel n c) rfl, decode_encode (i := .timeout n c) rfl,
    fun hout => ⟨endPending_outOfRange .cancelled s hout, endPending_outOfRange .timeout s hout⟩,
    fun hn hc hp => ?_, fun hn hc hp => ?_⟩
  · rw [← hi hn hc] at hp ⊢
    exact ⟨endPending_notPending .cancelled hn hc hp, endPending_notPending .timeout hn hc hp⟩
  · rw [← hi hn hc] at hp ⊢
    exact ⟨_, _, endPending_pending .cancelled hn hc hp, endPending_pending .timeout hn hc hp, rfl, rfl,
      pendAt_clearPend_ite s _⟩

/-! ## After a request ended (R147, R148) -/

/-- A CANCEL or TIMEOUT of a pair in range names the pair and leaves it not pending. -/
theorem exec_end_released {n c : IdBus} {s t : State} {d : Response}
    (h : exec (.cancel n c) s = .next t ∨ exec (.timeout n c) s = .next t) (hd : t.response = some d)
    (hrange : d.status ≠ .outOfRange) :
    n.toNat < 64 ∧ c.toNat < 32 ∧ d.idOut = mkIdent n.toNat c.toNat ∧
      t.pendAt (mkIdent n.toNat c.toNat) = false := by
  obtain ⟨terminal, hend⟩ : ∃ terminal, endPending terminal n c s = .next t :=
    h.elim (fun hcancel => ⟨.cancelled, hcancel⟩) fun htimeout => ⟨.timeout, htimeout⟩
  rcases endPending_cases terminal n c s with ⟨-, hx⟩ | ⟨⟨hn, hc⟩, -, hx⟩ | ⟨⟨hn, hc⟩, hp, hx⟩ <;>
    cases hx.symm.trans hend <;> cases hd
  · exact absurd rfl hrange
  · exact ⟨hn, hc, rfl, by simp⟩
  · exact ⟨hn, hc, rfl, hp⟩

/-- Settles O38: the pair's bit is 0 after the end, so SEND passes the BUSY test. -/
theorem endedRequestReleasesItsSlot : Obligations.EndedRequestReleasesItsSlot := by
  intro n c r len p s t d h hd hrange hlen
  obtain ⟨hn, hc, hid, hfree⟩ := exec_end_released h hd hrange
  exact ⟨_, exec_send_free r p hlen hn hc (Or.inr hfree), by simp [hid], rfl⟩

/-- RECV decodes the frame of an active node: its command is fixed and the payload long enough, or it is an
endpoint command (R135). -/
def Decodable (cfg : CmdConfig) (i : Ident) (len : LenBus) : Prop :=
  (∃ entry, lookup cfg (cmdOf i) = some entry ∧ shapeLen entry.rxShape ≤ len.toNat) ∨
    (lookup cfg (cmdOf i) = none ∧ cfg.epLo.toNat ≤ (cmdOf i).toNat ∧ (cmdOf i).toNat ≤ cfg.epHi.toNat)

/-- A decodable frame of an active node reaches the end of the receive path, with its identifier. -/
theorem exec_recv_decodable {i : Ident} {len : LenBus} (p : PayBus) {s : State} (hlen : len.toNat ≤ 8)
    (hactive : s.active (nodeOf i) = true) (hdec : Decodable s.cfg i len) :
    ∃ telemetry r, r.idOut = i ∧ exec (.recv false false i len p) s = deliver i telemetry r s := by
  rcases hdec with ⟨entry, hentry, hfit⟩ | ⟨hnone, hlo, hhi⟩
  · exact ⟨_, _, rfl, exec_recv_fits p hlen hactive hentry hfit⟩
  · exact ⟨_, _, rfl, exec_recv_endpoint p hlen hactive hnone hlo hhi⟩

/-- A decodable frame of a pair that is not pending is an event, whether or not its node is active (R148). -/
theorem answer_recv_notPending {i : Ident} {len : LenBus} (p : PayBus) {s : State} (hlen : len.toNat ≤ 8)
    (hdec : Decodable s.cfg i len) (hp : s.pendAt i = false) :
    ∃ d, answer (.recv false false i len p) s = some d ∧
      (d.status = .unsolicited ∨ d.status = .discarded ∨ d.status = .ignoredNode) := by
  cases hactive : s.active (nodeOf i) with
  | false => exact ⟨_, answer_of_exec (exec_recv_inactive p hlen hactive), Or.inr (Or.inr rfl)⟩
  | true =>
    obtain ⟨telemetry, r, -, hexec⟩ := exec_recv_decodable p hlen hactive hdec
    refine ⟨_, answer_of_exec (hexec.trans (deliver_notPending telemetry r hp)), ?_⟩
    cases telemetry
    · exact Or.inr (Or.inl rfl)
    · exact Or.inl rfl

/-- A decodable frame of a pending pair completes its request (R141). -/
theorem exec_recv_pending {i : Ident} {len : LenBus} (p : PayBus) {s : State} (hlen : len.toNat ≤ 8)
    (hdec : Decodable s.cfg i len) (hp : s.pendAt i = true) :
    ∃ d, exec (.recv false false i len p) s = .next ((s.clearPend i).respond d) ∧
      d.status = .completed ∧ d.idOut = i := by
  obtain ⟨telemetry, r, hid, hexec⟩ := exec_recv_decodable p hlen (active_of_pending s i hp) hdec
  exact ⟨_, hexec.trans (deliver_pending telemetry r hp), rfl, hid⟩

/-- Settles O39: the pair is not pending after the end, and pending after the new SEND. -/
theorem lateReplyCompletesOnlyNewerRequest : Obligations.LateReplyCompletesOnlyNewerRequest := by
  intro n c r len' len p' p s t u d e i h hd hended hlen hdec hsend he hok
  have hrange : d.status ≠ .outOfRange := by rcases hended with hst | hst <;> simp [hst]
  obtain ⟨hn, hc, -, hreleased⟩ := exec_end_released h.symm hd hrange
  have hi : mkIdent n.toNat c.toNat = i := mkIdent_eq_ofNat hn hc
  have hcfg : t.cfg = s.cfg := h.elim exec_cfg exec_cfg
  have hdecodable : Decodable t.cfg i len := hcfg ▸ hdec
  obtain ⟨-, -, rfl⟩ := exec_send_opened hsend he hok
  rw [hi] at hreleased ⊢
  obtain ⟨y, hexec, hcompleted, hid⟩ :=
    exec_recv_pending (s := (t.setPend i).respond e) p hlen hdecodable (by simp)
  exact ⟨answer_recv_notPending p hlen hdecodable hreleased, _, y, hexec, rfl, hcompleted, hid, by simp⟩

/-! ## SUBSCRIBE and UNSUBSCRIBE (R150, R151) -/

theorem exec_subscribe_outOfRange {n : IdBus} (hout : 64 ≤ n.toNat) (s : State) :
    exec (.subscribe n) s = .next (s.respond { status := .outOfRange }) :=
  withNode_outOfRange n s (fun m => finish { status := .ok, nodeOut := m } (s.setSub m)) hout

theorem exec_unsubscribe_outOfRange {n : IdBus} (hout : 64 ≤ n.toNat) (s : State) :
    exec (.unsubscribe n) s = .next (s.respond { status := .outOfRange }) :=
  withNode_outOfRange n s (fun m => finish { status := .ok, nodeOut := m } (s.clearSub m)) hout

/-- Settles O41: one equation for each branch, and the written bit is the node's own. -/
theorem subscriptionsSetAndClearOneBit : Obligations.SubscriptionsSetAndClearOneBit := by
  intro n s
  refine ⟨decode_encode (i := .subscribe n) rfl, decode_encode (i := .unsubscribe n) rfl,
    fun hout => ⟨exec_subscribe_outOfRange hout s, exec_unsubscribe_outOfRange hout s⟩, fun hn => ?_⟩
  refine ⟨_, _, exec_subscribe hn s, exec_unsubscribe hn s, rfl, rfl, fun m => ?_⟩
  have hm : m = BitVec.ofNat 6 n.toNat ↔ m.toNat = n.toNat := by rw [← BitVec.toNat_inj, toNat_nodeId hn]
  simp only [State.respond_subAt, State.setSub_subAt, State.clearSub_subAt, hm]
  by_cases h : m.toNat = n.toNat <;> simp [h]

end Sys2Proof.Machine
end

section
/-! Outcomes and whole-machine rules (60_exceptions.md): the accounting of pending requests along a run (O47),
a response to every request (O9), the statuses and who reports them (O43), errors that write no state (O48),
the independence of the pairs (O35) and the idle block (O54). -/

namespace Sys2Proof.Machine

/-! ## Every step answers a next state (R165, R166) -/

theorem step_next (s : State) : ∃ t, step s = .next t := by
  rcases step_shape s with hs | ⟨turns, hs⟩ | ⟨a, q, rest, p, b, r, -, hs⟩ <;> exact ⟨_, hs⟩

/-- Settles O9: every operation ends as `exec_shape` says, and every step as `step_shape` says. -/
theorem everyStepAnswersNext : Obligations.EveryStepAnswersNext := by
  refine ⟨step_next, fun i s => ?_⟩
  obtain ⟨p, q, d, he⟩ := exec_shape i s
  exact ⟨_, d, he, rfl⟩

theorem step_of_idle {s u : State} (hf : fetch s = .idle u) : step s = .next u := by
  simp only [step, hf]

/-- Settles O54: the port finds nothing to take, and the step only spends the turn. -/
theorem blockNeverActsUnprompted : Obligations.BlockNeverActsUnprompted := by
  intro s hhost htransport hreset
  rcases fetch_cases s with ⟨-, -, -, hf⟩ | ⟨turns, hs, -⟩ | ⟨a, q, rest, hq, -, -⟩
  · exact step_of_idle hf
  · exact absurd hs (hreset turns)
  · cases a with
    | host => cases hhost.symm.trans hq
    | transport => cases htransport.symm.trans hq

/-! ## Errors write no state (R162, R165) -/

/-- Settles O48: every effect of an operation on PEND or SUB comes with OK or a terminal status. -/
theorem errorOutcomesWriteNoState : Obligations.ErrorOutcomesWriteNoState := by
  intro i s t d h hd hst
  rcases exec_cases i s t d h hd with
    ⟨ht, -⟩ | ⟨r, n, c, len, p, -, -, -, -, -, -, hdr⟩ | ⟨j, len, p, -, -, -, -, hcompleted, -⟩ |
    ⟨n, c, hi, -⟩ | ⟨n, -, hdr, -⟩
  · exact ht
  · simp [hdr, emitInto] at hst
  · simp [hcompleted] at hst
  · rcases hi with ⟨-, hended⟩ | ⟨-, hended⟩ <;> simp [hended] at hst
  · simp [hdr] at hst

/-! ## The accounting of pending requests (R169) -/

/-- A SEND with E = 1 that answers OK was not BUSY: its pair was not pending (R130). -/
theorem exec_send_was_free {r : Bool} {n c : IdBus} {len : LenBus} {p : PayBus} {s t : State} {d : Response}
    (h : exec (.send true r n c len p) s = .next t) (hd : t.response = some d) (hok : d.status = .ok) :
    s.pendAt (mkIdent n.toNat c.toNat) = false := by
  have hends {u : State} {q : Response} (hx : execSend true r n c len p s = .next (u.respond q)) :
      q.status = .ok := by
    cases hx.symm.trans h
    cases hd
    exact hok
  rcases execSend_cases true r n c len p s with
    ⟨-, hx⟩ | ⟨-, -, hx⟩ | ⟨-, -, -, -, -, hx⟩ | ⟨-, -, -, -, hfree, -⟩ | ⟨-, -, -, he, -⟩
  · cases hends hx
  · cases hends hx
  · cases hends hx
  · exact hfree
  · cases he

/-- The bit an operation turns from 0 to 1 is the one of a SEND with E = 1 that answered OK (R23). -/
theorem opened_iff {i : Instr} {s t : State} {d : Response} (h : exec i s = .next t)
    (hd : t.response = some d) (j : Ident) :
    s.pendAt j = false ∧ t.pendAt j = true ↔
      ∃ r n c len p, i = .send true r n c len p ∧ mkIdent n.toNat c.toNat = j ∧ d.status = .ok ∧
        d.idOut = j := by
  constructor
  · rintro ⟨hs, ht⟩
    obtain ⟨hopens, -⟩ := pendingBitLifecycle i s t d h hd j
    obtain ⟨⟨r, n, c, len, p, rfl⟩, hok, hid⟩ := hopens hs ht
    obtain ⟨-, -, rfl⟩ := exec_send_opened h hd hok
    have hj : j = mkIdent n.toNat c.toNat := by simpa [hs] using ht
    exact ⟨r, n, c, len, p, rfl, hj.symm, hok, hid⟩
  · rintro ⟨r, n, c, len, p, rfl, rfl, hok, -⟩
    obtain ⟨-, -, rfl⟩ := exec_send_opened h hd hok
    exact ⟨exec_send_was_free h hd hok, by simp⟩

/-! ### What a step counts -/

theorem servedReport_of_request {s u t : State} {q : Request} (hf : fetch s = .request q u)
    (ht : step s = .next t) : servedReport s = t.response.map fun r => (r.status, r.idOut) := by
  simp only [servedReport, hf, ht]

theorem opensAt_of_ok {s u : State} {q : Request} {i : Instr} (hf : fetch s = .request q u)
    (hdec : decode q = .ok i) (j : Ident) :
    opensAt j s = true ↔ ∃ r n c len p, i = .send true r n c len p ∧ mkIdent n.toNat c.toNat = j ∧
      servedReport s = some (.ok, j) := by
  simp only [opensAt, hf, hdec]
  split
  · next r n c len p heq =>
      cases heq
      simp
  · next hnot =>
      simp only [Bool.false_eq_true, false_iff]
      rintro ⟨r, n, c, len, p, rfl, -⟩
      exact hnot r n c len p rfl

theorem opensAt_of_error {s u : State} {q : Request} {e : Illegal} (hf : fetch s = .request q u)
    (hdec : decode q = .error e) (j : Ident) : opensAt j s = false := by
  simp only [opensAt, hf, hdec]

theorem closesAt_iff (j : Ident) (s : State) :
    closesAt j s = true ↔ servedReport s = some (.completed, j) ∨ servedReport s = some (.timeout, j) ∨
      servedReport s = some (.cancelled, j) := by
  simp [closesAt, or_assoc]

theorem not_counted_of_idle {s u : State} (hf : fetch s = .idle u) (j : Ident) :
    opensAt j s = false ∧ closesAt j s = false := by
  simp [opensAt, closesAt, servedReport, hf]

/-! ### The balance of one step -/

/-- A bit that changes only where a request is counted as opened or as ended balances the two counts. -/
theorem toNat_balance {before after opens closes : Bool}
    (hopens : opens = true ↔ before = false ∧ after = true)
    (hcloses : closes = true ↔ before = true ∧ after = false) :
    before.toNat + opens.toNat = closes.toNat + after.toNat := by
  revert before after opens closes
  decide

theorem fetch_keeps_pendAt {s u : State} {q : Request} (h : fetch s = .request q u) (j : Ident) :
    u.pendAt j = s.pendAt j := by
  rw [State.pendAt, (fetch_keeps_bits h).1, ← State.pendAt]

/-- A step that serves a request balances: the bit goes up with a SEND counted as opened, and down with a
terminal response (R23, R169). -/
theorem request_balance {s u t : State} {q : Request} (hf : fetch s = .request q u) (ht : step s = .next t)
    (j : Ident) :
    (s.pendAt j).toNat + (opensAt j s).toNat = (closesAt j s).toNat + (t.pendAt j).toNat := by
  have hserved := servedReport_of_request hf ht
  rw [← fetch_keeps_pendAt hf]
  cases hdec : decode q with
  | error e =>
    have hraised : step s = .next (u.respond { status := .illegalRequest }) := by
      simp only [step, hf, hdec, raise_eq]
    cases hraised.symm.trans ht
    have hcloses : closesAt j s = false := by simp [closesAt, hserved]
    simp [opensAt_of_error hf hdec, hcloses]
  | ok i =>
    have hexec : exec i u = .next t := (step_of_decode hf hdec).symm.trans ht
    obtain ⟨d, hd⟩ := exec_response hexec
    simp only [hd, Option.map_some] at hserved
    apply toNat_balance
    · rw [opened_iff hexec hd, opensAt_of_ok hf hdec, hserved]
      simp
    · obtain ⟨-, hends, -⟩ := pendingBitLifecycle i u t d hexec hd j
      rw [hends, closesAt_iff, hserved]
      simp only [Option.some.injEq, Prod.mk.injEq]
      tauto

/-- Every step but a reset balances (R169, R180). -/
theorem step_balance {s t : State} (hreset : ∀ turns, s.schedule ≠ .reset :: turns) (ht : step s = .next t)
    (j : Ident) :
    (s.pendAt j).toNat + (opensAt j s).toNat = (closesAt j s).toNat + (t.pendAt j).toNat := by
  rcases fetch_cases s with ⟨-, -, -, hf⟩ | ⟨turns, hs, -⟩ | ⟨a, q, rest, -, -, hf⟩
  · cases (step_of_idle hf).symm.trans ht
    obtain ⟨hopens, hcloses⟩ := not_counted_of_idle hf j
    simp [hopens, hcloses, State.pendAt]
  · exact absurd hs (hreset turns)
  · exact request_balance hf ht j

/-! ### The balance of a run -/

/-- Every step spends one turn of the schedule (log entry 6). -/
theorem step_schedule {s t : State} (ht : step s = .next t) : t.schedule = s.schedule.tail := by
  rcases step_cases s with hs | ⟨turns, hreset, hs⟩ | ⟨a, q, rest, -, -, hs | ⟨i, -, hs⟩⟩
  · cases hs.symm.trans ht
    rfl
  · cases hs.symm.trans ht
    simp [hreset]
  · cases hs.symm.trans ht
    simp
  · obtain ⟨p, b, r, he⟩ := exec_shape i (s.take a rest)
    cases (hs.trans he).symm.trans ht
    simp

theorem after_succ {s t : State} (ht : step s = .next t) (k : Nat) : after (k + 1) s = after k t := by
  simp only [after, ht]

/-- Settles O47, by induction on the number of steps: each step balances, and the balances add up. -/
theorem eachRequestEndsExactlyOnce : Obligations.EachRequestEndsExactlyOnce := by
  intro k s j hreset
  induction k generalizing s with
  | zero => simp [countAlong, after]
  | succ k ih =>
    obtain ⟨t, ht⟩ := step_next s
    have hstep := step_balance (fun turns hs => hreset .reset (by simp [hs]) rfl) ht j
    have hrun := ih t fun turn hturn => hreset turn (List.mem_of_mem_tail (step_schedule ht ▸ hturn))
    simp only [countAlong, after_succ ht]
    simp only [after]
    omega

/-! ## The statuses and who reports them (R160, R161) -/

/-- A request of operation `i` that ended with a status whose "reported by" column names `i`. -/
def EndsReported (i : Instr) (x : Result) : Prop :=
  ∃ t r, x = .next (State.respond t r) ∧ reportedBy r.status i = true

section
variable {i : Instr}

theorem endsReported_next (t : State) {r : Response} (h : reportedBy r.status i = true) :
    EndsReported i (.next (t.respond r)) :=
  ⟨t, r, rfl, h⟩

/-- Every operation may report ILLEGAL_REQUEST, so the check of LEN needs nothing of the operation. -/
theorem endsReported_withLen {len : LenBus} {s : State} {k : Result} (hk : EndsReported i k) :
    EndsReported i (withLen len s k) := by
  by_cases h : len.toNat ≤ 8
  · rwa [withLen_legal len s k h]
  · exact withLen_illegal len s k (by omega) ▸ endsReported_next s rfl

theorem endsReported_withPair {n c : IdBus} {s : State} {k : Ident → Result}
    (hout : reportedBy .outOfRange i = true) (hk : ∀ j, EndsReported i (k j)) :
    EndsReported i (withPair n c s k) := by
  by_cases h : n.toNat < 64 ∧ c.toNat < 32
  · exact withPair_inRange n c s k h.1 h.2 ▸ hk _
  · exact withPair_outOfRange n c s k (by omega) ▸ endsReported_next s hout

theorem endsReported_withNode {n : IdBus} {s : State} {k : NodeId → Result}
    (hout : reportedBy .outOfRange i = true) (hk : ∀ m, EndsReported i (k m)) :
    EndsReported i (withNode n s k) := by
  by_cases h : n.toNat < 64
  · exact withNode_inRange n s k h ▸ hk _
  · exact withNode_outOfRange n s k (by omega) ▸ endsReported_next s hout

theorem endsReported_endPending {terminal : Status} (hterminal : reportedBy terminal i = true)
    (hout : reportedBy .outOfRange i = true) (hnot : reportedBy .notPending i = true) (n c : IdBus)
    (s : State) : EndsReported i (endPending terminal n c s) := by
  refine endsReported_withPair hout fun j => ?_
  cases s.pendAt j with
  | true => exact endsReported_next (s.clearPend j) hterminal
  | false => exact endsReported_next s hnot

end

/-- DEC_EMPTY is never too short, and the other decoders' rows list MALFORMED_PAYLOAD. -/
theorem endsReported_decodeFixed (S : FixedShape) (len : LenBus) (p : PayBus) (s : State) :
    EndsReported (decInstr S len p) (decodeFixed S len p s) := by
  rcases decodeFixed_cases S len p s with ⟨-, hx⟩ | ⟨-, hshort, hx⟩ | ⟨-, -, hx⟩
  · exact hx ▸ endsReported_next s rfl
  · refine hx ▸ endsReported_next s ?_
    cases S with
    | empty => cases hshort
    | busvi | inpos | hbeat => rfl
  · refine hx ▸ endsReported_next s ?_
    cases S <;> rfl

theorem endsReported_execSend (e r : Bool) (n c : IdBus) (len : LenBus) (p : PayBus) (s : State) :
    EndsReported (.send e r n c len p) (execSend e r n c len p s) := by
  rcases execSend_cases e r n c len p s with
    ⟨-, hx⟩ | ⟨-, -, hx⟩ | ⟨-, -, -, -, -, hx⟩ | ⟨-, -, -, -, -, hx⟩ | ⟨-, -, -, -, hx⟩ <;>
    exact hx ▸ endsReported_next _ rfl

theorem endsReported_execRecv (r x : Bool) (j : Ident) (len : LenBus) (p : PayBus) (s : State) :
    EndsReported (.recv r x j len p) (execRecv r x j len p s) := by
  have hdeliver (telemetry : Bool) (d : Response) :
      EndsReported (.recv r x j len p) (deliver j telemetry d s) := by
    rcases deliver_cases j telemetry d s with ⟨-, hx⟩ | ⟨-, -, hx⟩ | ⟨-, -, hx⟩ <;>
      exact hx ▸ endsReported_next _ rfl
  rcases execRecv_cases r x j len p s with
    ⟨-, hx⟩ | ⟨-, -, hx⟩ | ⟨-, -, -, -, hx⟩ | ⟨-, -, -, -, -, hx⟩ | ⟨-, -, -, -, -, hx⟩ |
    ⟨-, -, -, -, -, -, -, hx⟩ | ⟨entry, -, -, -, -, -, -, hx⟩
  · exact hx ▸ endsReported_next s rfl
  · exact hx ▸ endsReported_next s rfl
  · exact hx ▸ endsReported_next s rfl
  · exact hx ▸ endsReported_next s rfl
  · exact hx ▸ hdeliver _ _
  · exact hx ▸ endsReported_next s rfl
  · exact hx ▸ hdeliver _ _

/-- Every operation ends with a status of its own. -/
theorem endsReported_exec (i : Instr) (s : State) : EndsReported i (exec i s) := by
  cases i with
  | idPack n c => exact endsReported_withPair rfl fun _ => endsReported_next s rfl
  | idFromRaw w | idNode j | idCmd j | idRaw j => exact endsReported_next s rfl
  | encEmpty | encBusvi a0 a1 | encInpos a0 a1 a2 | encHbeat a0 a1 a2 a3 => exact endsReported_next s rfl
  | decEmpty len p => exact endsReported_decodeFixed .empty len p s
  | decBusvi len p => exact endsReported_decodeFixed .busvi len p s
  | decInpos len p => exact endsReported_decodeFixed .inpos len p s
  | decHbeat len p => exact endsReported_decodeFixed .hbeat len p s
  | encEndpt len p | decEndpt len p => exact endsReported_withLen (endsReported_next s rfl)
  | send e r n c len p => exact endsReported_execSend e r n c len p s
  | recv r x j len p => exact endsReported_execRecv r x j len p s
  | cancel n c => exact endsReported_endPending (terminal := .cancelled) rfl rfl rfl n c s
  | timeout n c => exact endsReported_endPending (terminal := .timeout) rfl rfl rfl n c s
  | subscribe n => exact endsReported_withNode rfl fun m => endsReported_next (s.setSub m) rfl
  | unsubscribe n => exact endsReported_withNode rfl fun m => endsReported_next (s.clearSub m) rfl

/-- The codes of the kinds (R161). -/
theorem kind_iff_code (st : Status) :
    (st.kind = .success ↔ st.code = 0) ∧ (st.kind = .error ↔ st.code ∈ [1#4, 2, 6, 7]) ∧
      (st.kind = .report ↔ st.code = 3) ∧ (st.kind = .terminal ↔ st.code ∈ [4#4, 5, 8]) := by
  cases st <;> decide

/-- No status has the code 14 or 15 (R161). -/
theorem code_ne_unused (st : Status) : st.code ≠ 14 ∧ st.code ≠ 15 := by
  cases st <;> decide

/-- Settles O43: the tables row by row, and the status each operation ended with. -/
theorem statusCodesAndReporters : Obligations.StatusCodesAndReporters := by
  refine ⟨by decide, by decide, kind_iff_code, fun r => code_ne_unused r.status, fun i s r h => ?_⟩
  obtain ⟨t, d, hexec, hreported⟩ := endsReported_exec i s
  cases (answer_of_exec hexec).symm.trans h
  exact hreported

/-! ## The pairs are independent (R173) -/

/-- Two requests, from `s` and from `s'`, that answer alike, leave the same bit at identifier `i` and change no
other bit (R173). -/
def AgreeAt (i : Ident) (s s' : State) (x x' : Result) : Prop :=
  ∃ t t', x = .next t ∧ x' = .next t' ∧ t.response = t'.response ∧ t.pendAt i = t'.pendAt i ∧
    ∀ j, j ≠ i → t.pendAt j = s.pendAt j ∧ t'.pendAt j = s'.pendAt j

section
variable {i : Ident} {s s' : State}

/-! ### The ends of a request -/

theorem agreeAt_respond (hp : s.pendAt i = s'.pendAt i) (r : Response) :
    AgreeAt i s s' (.next (s.respond r)) (.next (s'.respond r)) :=
  ⟨_, _, rfl, rfl, rfl, hp, fun _ _ => ⟨rfl, rfl⟩⟩

theorem agreeAt_setPend (r : Response) :
    AgreeAt i s s' (.next ((s.setPend i).respond r)) (.next ((s'.setPend i).respond r)) :=
  ⟨_, _, rfl, rfl, rfl, by simp, fun j hj => by simp [hj]⟩

theorem agreeAt_clearPend (r : Response) :
    AgreeAt i s s' (.next ((s.clearPend i).respond r)) (.next ((s'.clearPend i).respond r)) :=
  ⟨_, _, rfl, rfl, rfl, by simp, fun j hj => by simp [hj]⟩

/-- A test that reads the same in both states. -/
theorem agreeAt_ite {b : Prop} [Decidable b] {x x' y y' : Result} (hx : AgreeAt i s s' x x')
    (hy : AgreeAt i s s' y y') : AgreeAt i s s' (if b then x else y) (if b then x' else y') := by
  split
  · exact hx
  · exact hy

/-! ### The operations of a pair whose bit is the same in both states -/

variable (hp : s.pendAt i = s'.pendAt i)
include hp

theorem agreeAt_withLen (len : LenBus) {k k' : Result} (hk : AgreeAt i s s' k k') :
    AgreeAt i s s' (withLen len s k) (withLen len s' k') := by
  by_cases h : len.toNat ≤ 8
  · rwa [withLen_legal len s k h, withLen_legal len s' k' h]
  · rw [withLen_illegal len s k (by omega), withLen_illegal len s' k' (by omega)]
    exact agreeAt_respond hp _

theorem agreeAt_deliver (telemetry : Bool) (r : Response) :
    AgreeAt i s s' (deliver i telemetry r s) (deliver i telemetry r s') := by
  cases hs : s.pendAt i with
  | true =>
    rw [deliver_pending telemetry r hs, deliver_pending telemetry r (hp ▸ hs)]
    exact agreeAt_clearPend _
  | false =>
    rw [deliver_notPending telemetry r hs, deliver_notPending telemetry r (hp ▸ hs)]
    exact agreeAt_respond hp _

theorem agreeAt_recv (r x : Bool) (len : LenBus) (p : PayBus) (hcfg : s.cfg = s'.cfg)
    (hactive : s.active (nodeOf i) = s'.active (nodeOf i)) :
    AgreeAt i s s' (exec (.recv r x i len p) s) (exec (.recv r x i len p) s') := by
  refine agreeAt_withLen hp len ?_
  rw [← hactive, ← hcfg]
  refine agreeAt_ite (agreeAt_respond hp _) (agreeAt_ite (agreeAt_respond hp _) ?_)
  cases classify s.cfg (cmdOf i) with
  | unknown => exact agreeAt_respond hp _
  | endpoint => exact agreeAt_deliver hp _ _
  | fixed entry => exact agreeAt_ite (agreeAt_respond hp _) (agreeAt_deliver hp _ _)

section
variable {n c : IdBus} (hn : n.toNat < 64) (hc : c.toNat < 32) (hi : mkIdent n.toNat c.toNat = i)
include hn hc hi

theorem agreeAt_endPending (terminal : Status) :
    AgreeAt i s s' (endPending terminal n c s) (endPending terminal n c s') := by
  subst hi
  cases hs : s.pendAt (mkIdent n.toNat c.toNat) with
  | true =>
    rw [endPending_pending terminal hn hc hs, endPending_pending terminal hn hc (hp ▸ hs)]
    exact agreeAt_clearPend _
  | false =>
    rw [endPending_notPending terminal hn hc hs, endPending_notPending terminal hn hc (hp ▸ hs)]
    exact agreeAt_respond hp _

theorem agreeAt_send (e r : Bool) (len : LenBus) (p : PayBus) :
    AgreeAt i s s' (exec (.send e r n c len p) s) (exec (.send e r n c len p) s') := by
  refine agreeAt_withLen hp len ?_
  rw [withPair_inRange n c s _ hn hc, withPair_inRange n c s' _ hn hc, hi, ← hp]
  cases e with
  | false => exact agreeAt_respond hp _
  | true =>
    cases s.pendAt i with
    | true => exact agreeAt_respond hp _
    | false => exact agreeAt_setPend _

end
end

/-- Settles O35: each operation looks at the pair's own bit only, and writes no other. -/
theorem pairsAreIndependent : Obligations.PairsAreIndependent := by
  intro s s' i hp
  refine ⟨fun r x len p => agreeAt_recv hp r x len p, fun n c hpair hc e r len p op hop => ?_⟩
  have hn : n.toNat < 64 := by
    have := i.isLt
    omega
  have hi : mkIdent n.toNat c.toNat = i :=
    BitVec.eq_of_toNat_eq ((mkIdent_toNat n.toNat c.toNat hn hc).trans hpair.symm)
  simp only [List.mem_cons, List.not_mem_nil, or_false] at hop
  rcases hop with rfl | rfl | rfl
  · exact agreeAt_endPending hp hn hc hi .cancelled
  · exact agreeAt_endPending hp hn hc hi .timeout
  · exact agreeAt_send hp hn hc hi e r len p

end Sys2Proof.Machine
end

section
/-! Proofs of the statements of 70_reset_and_hazards.md: no node is active after reset (O36), frames RECV cannot
decode end no request (O40), and a reset between requests clears the block (O52). -/

namespace Sys2Proof.Machine

/-! ## Reset of the block (R180, R182) -/

/-- With PEND and SUB all zero no node is active (R25, R182). -/
theorem active_eq_false_of_bits_zero {s : State} (hpend : ∀ i, s.pendAt i = false)
    (hsub : ∀ n, s.subAt n = false) (n : NodeId) : s.active n = false :=
  active_eq_false (hsub n) fun i _ => hpend i

/-- Settles O36: both arrays are zero after reset, so the node filter drops the frame and writes no bit. -/
theorem noNodeIsActiveAfterReset : Obligations.NoNodeIsActiveAfterReset := by
  intro i len p s hlen
  obtain ⟨hpend, hsub, -, hblock⟩ := resetClearsPendAndSub
  obtain ⟨hpend', hsub', -, -⟩ := hblock s
  have hinactive := active_eq_false_of_bits_zero hpend' hsub'
  exact ⟨hinactive, active_eq_false_of_bits_zero hpend hsub,
    _, _, exec_recv_inactive p hlen (hinactive (nodeOf i)), rfl, rfl, hpend', hsub'⟩

/-- A scheduled reset is taken before any waiting request (R180). -/
theorem step_of_reset {s : State} {turns : List Turn} (hreset : s.schedule = .reset :: turns) :
    step s = .next ({ s with schedule := turns } : State).resetBlock := by
  simp only [step, fetch, hreset]

/-- Settles O52: the step is the reset of the block, which writes no queue and no configuration. -/
theorem resetTurnClearsTheBlock : Obligations.ResetTurnClearsTheBlock := by
  intro s turns hreset
  exact ⟨_, step_of_reset hreset, State.resetBlock_pendAt _, State.resetBlock_subAt _, rfl, rfl, rfl, rfl, rfl⟩

/-! ## Frames that end no request (R184) -/

/-- A bit RECV changes is that of a pair whose command decodes the frame: an endpoint command, or a fixed one whose
shape the frame is long enough for (R135, R184). -/
theorem classify_of_recv_changes_pendAt {r x : Bool} {i j : Ident} {len : LenBus} {p : PayBus} {s t : State}
    (h : exec (.recv r x i len p) s = .next t) (hj : t.pendAt j ≠ s.pendAt j) :
    classify s.cfg (cmdOf j) = .endpoint ∨
      ∃ entry, classify s.cfg (cmdOf j) = .fixed entry ∧ shapeLen entry.rxShape ≤ len.toNat := by
  obtain ⟨d, hd⟩ := exec_response h
  rcases exec_cases _ s t d h hd with
    ⟨rfl, -⟩ | ⟨_, _, _, _, _, hi, -⟩ | ⟨k, _, _, hi, -, -, hclass, -, -, rfl⟩ |
    ⟨_, _, ⟨hi, -⟩ | ⟨hi, -⟩, -⟩ | ⟨_, -, -, ⟨hi, -⟩ | ⟨hi, -⟩⟩
  · exact absurd rfl hj
  · cases hi
  · cases hi
    obtain rfl : j = i := BitArray.eq_of_read_clearBit_ne hj
    exact hclass
  all_goals cases hi

/-- Settles O40: a bit RECV changes has a command that is neither unknown nor fixed with a longer shape. -/
theorem undecodableFramesNeverEndRequest : Obligations.UndecodableFramesNeverEndRequest := by
  intro r x i j len p s t h
  refine ⟨fun hunknown => ?_, fun entry hentry hshort => ?_⟩ <;> by_contra hj
  · rcases classify_of_recv_changes_pendAt h hj with hclass | ⟨entry, hclass, -⟩ <;>
      cases hunknown.symm.trans hclass
  · have hfixed := classify_of_entry hentry
    rcases classify_of_recv_changes_pendAt h hj with hclass | ⟨entry', hclass, hfit⟩ <;>
      cases hfixed.symm.trans hclass
    omega

end Sys2Proof.Machine
end
